-- ==== Sys2Proof/Word.lean ====
section
/-! DEFINITION. The words of the engine: bytes (elements of GF(256)), 64-bit command words and responses, the 32-bit
word operand, and plain lists of bytes as rows of a matrix. -/

namespace Sys2Proof

/-- A byte, which is also an element of GF(256): bit i is the coefficient of x^i (R10, R50). -/
abbrev Byte := BitVec 8

/-- A command word or a response (R41, R49). -/
abbrev Word := BitVec 64

/-- The word operand `w` of a command: a block size or a byte offset (R41, R43). -/
abbrev Word32 := BitVec 32

/-- A row of a matrix over GF(256). -/
abbrev GfRow := List Byte

/-- A matrix over GF(256), a list of its rows, row first and indexed from 0 (R14). -/
abbrev GfMatrix := List GfRow

end Sys2Proof
end

