-- ==== Sys2Proof/Machine/Matrix.lean ====
section
/-! DEFINITION. Matrices over GF(256) (R14): the generating-matrix builder (GMB, R66 to R68) and the matrix-inversion engine
of the reconstructor (R86). -/

namespace Sys2Proof.Machine

/-- `A[r][c]` (R14). Every rule reads a matrix inside its shape only. -/
def entry (a : GfMatrix) (r c : Nat) : Byte := (a.getD r []).getD c 0

/-- The matrix of `rows` rows and `cols` columns whose entry at r, c is `e r c`. -/
def buildMatrix (rows cols : Nat) (e : Nat → Nat → Byte) : GfMatrix :=
  (List.range rows).map fun r => (List.range cols).map fun c => e r c

/-- `I_n` (R14). -/
def identityMatrix (n : Nat) : GfMatrix := buildMatrix n n fun r c => if r = c then 0x01 else 0x00

/-- The product `A * B` of a matrix of `rows` rows and `inner` columns with one of `cols` columns (R14). -/
def mulMatrix (rows inner cols : Nat) (a b : GfMatrix) : GfMatrix :=
  buildMatrix rows cols fun r c => xorSum inner fun t => gfMul (entry a r t) (entry b t c)

/-- The Vandermonde matrix on the points x_r = EXP[r]: `V[r][c] = EXP[(r * c) mod 255]` (R66, R67). -/
def vandermonde (rows cols : Nat) : GfMatrix := buildMatrix rows cols fun r c => alphaPow (r * c)

/-- The row to pivot on in column `c`: `c` itself if its entry is not zero, else the smallest row below with a nonzero
entry, if there is one (R86). -/
def findPivot (n : Nat) (a : GfMatrix) (c : Nat) : Option Nat :=
  (List.range' c (n - c)).find? fun r => entry a r c ≠ 0x00

/-- Swap rows `c` and `r` (R86). -/
def swapRows (n : Nat) (c r : Nat) (a : GfMatrix) : GfMatrix :=
  buildMatrix n n fun i t => entry a (if i = c then r else if i = r then c else i) t

/-- Divide row `c` by the pivot, `quotient` being the divider set to it (R86). -/
def scaleRow (n : Nat) (c : Nat) (quotient : Byte → Byte) (a : GfMatrix) : GfMatrix :=
  buildMatrix n n fun i t => if i = c then quotient (entry a c t) else entry a i t

/-- Subtract `f i` times row `c` from every other row `i` (R86). -/
def clearColumn (n : Nat) (c : Nat) (f : Nat → Byte) (a : GfMatrix) : GfMatrix :=
  buildMatrix n n fun i t =>
    if i = c ∨ f i = 0x00 then entry a i t else entry a i t ^^^ gfMul (f i) (entry a c t)

/-- Column `c` of the elimination on the pair (A, B): every row operation is applied to both (R86). None if there is no
nonzero pivot. -/
def eliminateColumn (n : Nat) (ab : GfMatrix × GfMatrix) (c : Nat) : Option (GfMatrix × GfMatrix) := do
  let r ← findPivot n ab.1 c
  let a := swapRows n c r ab.1
  let b := swapRows n c r ab.2
  let quotient ← gfDivBy (entry a c c)
  let a := scaleRow n c quotient a
  let b := scaleRow n c quotient b
  let f := fun i => entry a i c
  return (clearColumn n c f a, clearColumn n c f b)

/-- `inv(A)` of an n x n matrix by Gauss-Jordan elimination, columns in ascending order (R86); none when A is singular. -/
def inverse (n : Nat) (a : GfMatrix) : Option GfMatrix :=
  ((List.range n).foldlM (eliminateColumn n) (a, identityMatrix n)).map fun ab => ab.2

/-- `inv(V_top)` for K = `k`. It always exists (R68, R70), so the empty matrix is never taken (log entry 9). -/
def vandermondeTopInverse (k : Nat) : GfMatrix := (inverse k (vandermonde k k)).getD []

/-- The generating matrix `GM = V * inv(V_top)` for K = `k` and P = `p` (R68). -/
def generatingMatrix (k p : Nat) : GfMatrix :=
  mulMatrix (k + p) k k (vandermonde (k + p) k) (vandermondeTopInverse k)

end Sys2Proof.Machine
end

