-- ==== Sys2Proof/Syntax.lean ====
section
/-! DEFINITION. The thirteen commands of the opcode map (R44), one constructor a row, with the operands of R43, and the
five formats of R42. -/

namespace Sys2Proof

/-- A command with its operands, each taken unchanged from its field (R43): `fa` and `fb` are bytes, `w` has 32 bits. -/
inductive Instr where
  /-- `GFMUL a, b` (R63). -/
  | gfmul (a b : Byte)
  /-- `GFDIV a, b` (R64): `a` the dividend, `b` the divisor. -/
  | gfdiv (a b : Byte)
  /-- `GFEXP i` (R55). -/
  | gfexp (e : Byte)
  /-- `GFLOG a` (R56). -/
  | gflog (a : Byte)
  /-- `CTXNEW k, p` (R74). -/
  | ctxnew (k p : Byte)
  /-- `CTXREL` (R75). -/
  | ctxrel
  /-- `ENCODE cnt, block_size` (R77). -/
  | encode (cnt : Byte) (blockSize : Word32)
  /-- `RECON cnt, block_size` (R83). -/
  | recon (cnt : Byte) (blockSize : Word32)
  /-- `SHWR i, j, v` (R97). -/
  | shwr (shard : Byte) (offset : Word32) (v : Byte)
  /-- `SHRD i, j` (R98). -/
  | shrd (shard : Byte) (offset : Word32)
  /-- `MKWR i, v` (R99). -/
  | mkwr (shard v : Byte)
  /-- `MKRD i` (R100). -/
  | mkrd (shard : Byte)
  /-- `RDCSR n` (R101): a legal word has n in 0..3 (R44). -/
  | rdcsr (n : Byte)
deriving DecidableEq, Repr

/-- The name of a command: a row of the opcode map without its operands (R44). -/
inductive Opcode where
  | gfmul | gfdiv | gfexp | gflog | ctxnew | ctxrel | encode | recon | shwr | shrd | mkwr | mkrd | rdcsr
deriving DecidableEq, Repr

/-- Which of the fields `fa`, `fb`, `w` a command uses (R42). -/
inductive Format where
  | z | a | ab | aw | abw
deriving DecidableEq, Repr

/-- Why a word is no command: the four grounds (a) to (d) of R45. -/
inductive IllegalWord where
  /-- (a) `op` is no opcode of the map. -/
  | unknownOpcode
  /-- (b) `rsv` is not 0. -/
  | reservedNotZero
  /-- (c) a field the format does not use is not 0. -/
  | unusedFieldNotZero
  /-- (d) the command is RDCSR and `fa` is 4 or more. -/
  | noSuchCsr
deriving DecidableEq, Repr

end Sys2Proof
end

