-- ==== Sys2Proof/WellFormed.lean ====
section
/-! DEFINITION. Which commands can be written as a legal word. The operand types already hold every field to its width;
the one further check of the opcode map is RDCSR's register number (R44, R45 (d)). -/

namespace Sys2Proof

/-- The last control and status register (R24). -/
def lastCsr : Byte := 3

/-- A command that some legal command word encodes (R44): every operand of every command is legal as an encoding, but for
a register number above 3 in RDCSR. -/
def Instr.wellFormed : Instr → Bool
  | .gfmul _ _ => true
  | .gfdiv _ _ => true
  | .gfexp _ => true
  | .gflog _ => true
  | .ctxnew _ _ => true
  | .ctxrel => true
  | .encode _ _ => true
  | .recon _ _ => true
  | .shwr _ _ _ => true
  | .shrd _ _ => true
  | .mkwr _ _ => true
  | .mkrd _ => true
  | .rdcsr n => n ≤ lastCsr

end Sys2Proof
end

