-- ==== Sys2Proof/Decode.lean ====
section
/-! DEFINITION. The command encoding: fields (R41), formats (R42), opcode map (R44), illegal words (R45), the decoder,
which is total and rejects by name (R47), and the encoder (R48). -/

namespace Sys2Proof

/-- `op = cmd[63:56]` (R41). -/
def opField (cmd : Word) : Byte := cmd.extractLsb' 56 8

/-- `fa = cmd[55:48]` (R41). -/
def faField (cmd : Word) : Byte := cmd.extractLsb' 48 8

/-- `fb = cmd[47:40]` (R41). -/
def fbField (cmd : Word) : Byte := cmd.extractLsb' 40 8

/-- `rsv = cmd[39:32]` (R41). -/
def rsvField (cmd : Word) : Byte := cmd.extractLsb' 32 8

/-- `w = cmd[31:0]` (R41). -/
def wField (cmd : Word) : Word32 := cmd.extractLsb' 0 32

/-- `cmd = {op, fa, fb, rsv, w}` (R41). -/
def packFields (op fa fb rsv : Byte) (w : Word32) : Word := op ++ fa ++ fb ++ rsv ++ w

/-- The opcode column of R44. -/
def Opcode.code : Opcode → Byte
  | .gfmul => 0x01
  | .gfdiv => 0x02
  | .gfexp => 0x03
  | .gflog => 0x04
  | .ctxnew => 0x10
  | .ctxrel => 0x11
  | .encode => 0x20
  | .recon => 0x21
  | .shwr => 0x30
  | .shrd => 0x31
  | .mkwr => 0x32
  | .mkrd => 0x33
  | .rdcsr => 0x40

/-- The format column of R44. -/
def Opcode.format : Opcode → Format
  | .gfmul => .ab
  | .gfdiv => .ab
  | .gfexp => .a
  | .gflog => .a
  | .ctxnew => .ab
  | .ctxrel => .z
  | .encode => .aw
  | .recon => .aw
  | .shwr => .abw
  | .shrd => .aw
  | .mkwr => .ab
  | .mkrd => .a
  | .rdcsr => .a

/-- The rows of R44 in the table's order. -/
def Opcode.all : List Opcode :=
  [.gfmul, .gfdiv, .gfexp, .gflog, .ctxnew, .ctxrel, .encode, .recon, .shwr, .shrd, .mkwr, .mkrd, .rdcsr]

/-- The row of R44 whose opcode is `op`, if there is one. -/
def Opcode.ofCode (op : Byte) : Option Opcode := Opcode.all.find? fun o => o.code = op

/-- The fields a format does not use are 0 (R42). -/
def Format.unusedZero (f : Format) (fa fb : Byte) (w : Word32) : Bool :=
  match f with
  | .z => fa = 0 ∧ fb = 0 ∧ w = 0
  | .a => fb = 0 ∧ w = 0
  | .ab => w = 0
  | .aw => fb = 0
  | .abw => true

/-- A row's command with the operands of R43. -/
def Opcode.command (o : Opcode) (fa fb : Byte) (w : Word32) : Instr :=
  match o with
  | .gfmul => .gfmul fa fb
  | .gfdiv => .gfdiv fa fb
  | .gfexp => .gfexp fa
  | .gflog => .gflog fa
  | .ctxnew => .ctxnew fa fb
  | .ctxrel => .ctxrel
  | .encode => .encode fa w
  | .recon => .recon fa w
  | .shwr => .shwr fa w fb
  | .shrd => .shrd fa w
  | .mkwr => .mkwr fa fb
  | .mkrd => .mkrd fa
  | .rdcsr => .rdcsr fa

/-- The row of R44 a command belongs to. -/
def Instr.opcode : Instr → Opcode
  | .gfmul _ _ => .gfmul
  | .gfdiv _ _ => .gfdiv
  | .gfexp _ => .gfexp
  | .gflog _ => .gflog
  | .ctxnew _ _ => .ctxnew
  | .ctxrel => .ctxrel
  | .encode _ _ => .encode
  | .recon _ _ => .recon
  | .shwr _ _ _ => .shwr
  | .shrd _ _ => .shrd
  | .mkwr _ _ => .mkwr
  | .mkrd _ => .mkrd
  | .rdcsr _ => .rdcsr

/-- The match column of R44. The decoder does not use it: R44 says that the two readings agree. -/
def Opcode.matchWord : Opcode → Word
  | .gfmul => 0x0100000000000000
  | .gfdiv => 0x0200000000000000
  | .gfexp => 0x0300000000000000
  | .gflog => 0x0400000000000000
  | .ctxnew => 0x1000000000000000
  | .ctxrel => 0x1100000000000000
  | .encode => 0x2000000000000000
  | .recon => 0x2100000000000000
  | .shwr => 0x3000000000000000
  | .shrd => 0x3100000000000000
  | .mkwr => 0x3200000000000000
  | .mkrd => 0x3300000000000000
  | .rdcsr => 0x4000000000000000

/-- The mask column of R44. -/
def Opcode.maskWord : Opcode → Word
  | .gfmul => 0xFF0000FFFFFFFFFF
  | .gfdiv => 0xFF0000FFFFFFFFFF
  | .gfexp => 0xFF00FFFFFFFFFFFF
  | .gflog => 0xFF00FFFFFFFFFFFF
  | .ctxnew => 0xFF0000FFFFFFFFFF
  | .ctxrel => 0xFFFFFFFFFFFFFFFF
  | .encode => 0xFF00FFFF00000000
  | .recon => 0xFF00FFFF00000000
  | .shwr => 0xFF0000FF00000000
  | .shrd => 0xFF00FFFF00000000
  | .mkwr => 0xFF0000FFFFFFFFFF
  | .mkrd => 0xFF00FFFFFFFFFFFF
  | .rdcsr => 0xFFFCFFFFFFFFFFFF

/-- The decoder (R47): the command a word encodes, or the ground of R45 on which the word is illegal. -/
def decode (cmd : Word) : Except IllegalWord Instr :=
  match Opcode.ofCode (opField cmd) with
  | none => .error .unknownOpcode
  | some o =>
    if rsvField cmd ≠ 0 then .error .reservedNotZero
    else if ¬ o.format.unusedZero (faField cmd) (fbField cmd) (wField cmd) then .error .unusedFieldNotZero
    else if o = .rdcsr ∧ lastCsr < faField cmd then .error .noSuchCsr
    else .ok (o.command (faField cmd) (fbField cmd) (wField cmd))

/-- The encoder: the word of a command in the layout of R48. It is written from the table, not from the decoder. -/
def encode : Instr → Word
  | .gfmul a b => packFields 0x01 a b 0x00 0
  | .gfdiv a b => packFields 0x02 a b 0x00 0
  | .gfexp e => packFields 0x03 e 0x00 0x00 0
  | .gflog a => packFields 0x04 a 0x00 0x00 0
  | .ctxnew k p => packFields 0x10 k p 0x00 0
  | .ctxrel => packFields 0x11 0x00 0x00 0x00 0
  | .encode cnt blockSize => packFields 0x20 cnt 0x00 0x00 blockSize
  | .recon cnt blockSize => packFields 0x21 cnt 0x00 0x00 blockSize
  | .shwr shard offset v => packFields 0x30 shard v 0x00 offset
  | .shrd shard offset => packFields 0x31 shard 0x00 0x00 offset
  | .mkwr shard v => packFields 0x32 shard v 0x00 0
  | .mkrd shard => packFields 0x33 shard 0x00 0x00 0
  | .rdcsr n => packFields 0x40 n 0x00 0x00 0

/-- What the decoder reads from a word whose low `nbits` bits are those of `w` and whose other bits are 0. A command is
one 64-bit word (R41), so there are no words to lay out. -/
def decodeTableWord (nbits w : Nat) : Option Instr := (decode (BitVec.ofNat 64 (w % 2 ^ nbits))).toOption

end Sys2Proof
end

