-- ==== Sys2Proof/Config.lean ====
section
/-! DEFINITION. What the spec leaves to the implementation: the open parameter BLOCK_MAX as State.reset holds it, and the
one free value, the contents of shard memory that no command has written. -/

namespace Sys2Proof.Config

/-- BLOCK_MAX in `Machine.State.reset`. DESIGN CHOICE (log entry 1, unsafe): the spec leaves it open in 1..2^32-1 (R7, D8);
16 is the value of the spec's test vectors. `Machine.State.resetWith` gives the reset state for any BLOCK_MAX. -/
def blockMax : Word32 := 16

/-- The byte that place (shard, offset) of shard memory holds after the reset numbered `resetCount` until a command writes
it. A FREE VALUE (log entry 2): 'each byte holds some value, stable until written' (R114, R21, U6). -/
opaque freeShardByte (resetCount shard offset : Nat) : Byte

end Sys2Proof.Config
end

