-- ==== Sys2Proof/Machine/State.lean ====
section
/-! DEFINITION. The engine's state as plain data (10_state.md), the reasons a step could stop, and the state after reset
(R114). -/

namespace Sys2Proof.Machine

/-- A memory: the (address, byte) pairs a command has written, addresses strictly rising. -/
abbrev Memory := List Host.Cell

/-- What the host can do to the engine: issue a command word on the command port, or assert reset, and nothing else (R9). -/
inductive HostAction where
  | command (cmd : Word)
  | reset
deriving DecidableEq, Repr

/-- The cause of an engine fault (R104). The engine does not stop the machine on one: it takes the fault entry of R106. -/
inductive FaultCause where
  | illegalCmd
  | gfDomain
  | noContext
  | badCount
  | badBlock
  | badIndex
  | internalSingular
deriving DecidableEq, Repr

/-- The state of the engine (10_state.md) with the model's own fields last. EXP and LOG are constants (R18, R54) and the
scratch storage carries nothing between commands (R25): neither is a field. -/
structure State where
  /-- CTX_VALID: a context is held (R19). -/
  ctxValid : Bool
  /-- K, data_shard_count (R19). -/
  k : Byte
  /-- P, parity_shard_count (R19). -/
  p : Byte
  /-- GM, the entries with r < N and c < K; empty when no context is held (R20). -/
  gm : GfMatrix
  /-- SH, the shard bytes written since reset, keyed by `shardKey i j` (R21). -/
  sh : Memory
  /-- MASK (R22). -/
  mask : Vector Byte 255
  /-- FAULTED (R23). -/
  faulted : Bool
  /-- FCAUSE (R23). -/
  fcause : Byte
  /-- FCMD (R23). -/
  fcmd : Word
  /-- BLOCK_MAX, the parameter of this engine, read as the CSR BLKMAX; no step changes it (R7, R24). -/
  blockMax : Word32
  /-- The model's own: how many resets came before, which selects the free bytes of unwritten shard memory (U6). -/
  resets : Nat
  /-- The model's own: what the host is going to do, in issue order (R36). -/
  host : List HostAction
  /-- The model's own: the response of the latest command, the engine's output (R49). -/
  response : Option Word
deriving DecidableEq, Repr

/-- The reasons a step stops with a fault: there are none. Every fault of the spec is an entry the engine takes (R106),
after which it goes on (R107), so no meaning answers with a fault. -/
inductive Fault where
deriving DecidableEq, Repr

/-- The reasons a step is refused. -/
inductive Refusal where
  /-- An instruction without a meaning, raised by an arm of `exec` alone. Safe. No arm raises it. -/
  | notModelled (mnemonic : String)
deriving DecidableEq, Repr

/-- The state after reset (R114) of an engine whose parameter BLOCK_MAX is `blockMax`, where `resets` resets came before. -/
def State.resetWith (blockMax : Word32) (resets : Nat) : State where
  ctxValid := false
  k := 0
  p := 0
  gm := []
  sh := []
  mask := Vector.replicate 255 0
  faulted := false
  fcause := 0
  fcmd := 0
  blockMax := blockMax
  resets := resets
  host := []
  response := none

/-- The machine right after its first reset, with BLOCK_MAX as in `Config.blockMax` (log entry 1). -/
def State.reset : State := State.resetWith Config.blockMax 0

end Sys2Proof.Machine
end

