-- ==== Sys2Proof/Machine/Flags.lean ====
section
/-! DEFINITION. The status bits, the cause codes and the control and status registers. The engine has no condition codes
and no command computes a flag: the only status bits are CTX_VALID and FAULTED (R17). -/

namespace Sys2Proof.Machine

/-- The value FCAUSE takes (R104). -/
def FaultCause.code : FaultCause → Byte
  | .illegalCmd => 0x01
  | .gfDomain => 0x02
  | .noContext => 0x03
  | .badCount => 0x04
  | .badBlock => 0x05
  | .badIndex => 0x06
  | .internalSingular => 0x07

/-- CSR 0, STATUS: `{40 zero bits, P, K, 6 zero bits, FAULTED, CTX_VALID}` (R24, R101). -/
def State.status (s : State) : Word :=
  (0 : BitVec 40) ++ s.p ++ s.k ++ (0 : BitVec 6) ++ BitVec.ofBool s.faulted ++ BitVec.ofBool s.ctxValid

/-- The value a control and status register reads as, if the number names one (R24, R101). -/
def State.csr (s : State) (n : Nat) : Option Word :=
  match n with
  | 0 => some s.status
  | 1 => some (s.fcause.setWidth 64)
  | 2 => some s.fcmd
  | 3 => some (s.blockMax.setWidth 64)
  | _ => none

end Sys2Proof.Machine
end

