-- ==== Sys2Proof/Machine/Memory.lean ====
section
/-! DEFINITION. Memory as a list of the bytes written, addresses strictly rising: one read, one write, the canonical form. -/

namespace Sys2Proof.Machine

/-- What an address that no command has written reads as: no written byte. The engine's own read, `State.shByte`, then
answers the free byte of that place (log entry 2). -/
def Memory.unlisted (_address : Nat) : Option Byte := none

/-- The byte written last at an address, if any. -/
def Memory.read (m : Memory) (address : Nat) : Option Byte :=
  match m with
  | [] => Memory.unlisted address
  | (a, v) :: rest => if address = a then some v else Memory.read rest address

/-- Write a byte, keeping the addresses strictly rising. -/
def Memory.write (m : Memory) (address : Nat) (v : Byte) : Memory :=
  match m with
  | [] => [(address, v)]
  | (a, u) :: rest =>
    if address < a then (address, v) :: (a, u) :: rest
    else if address = a then (a, v) :: rest
    else (a, u) :: Memory.write rest address v

/-- The canonical form: addresses strictly rise, and no entry is what an unlisted address reads as. -/
abbrev Memory.wf (m : Memory) : Prop :=
  List.Pairwise (fun x y => x.1 < y.1) m ∧ ∀ x ∈ m, Memory.unlisted x.1 ≠ some x.2

end Sys2Proof.Machine
end

