-- ==== Sys2Proof/Machine/Operands.lean ====
section
/-! DEFINITION. The operand forms: absolute addressing straight from the command word (R96), with the range checks of R29
in the order of R105. Each form answers the place, or the cause of the fault. -/

namespace Sys2Proof.Machine

/-- N_MAX: the shards of one coding group, and the rows of SH and MASK (R7, R27). -/
def nMax : Nat := 255

/-- N = K + P as a natural number (R19). -/
def State.n (s : State) : Nat := s.k.toNat + s.p.toNat

/-- The model's number for the place (i, j) of shard space (log entry 3): a different one for every pair with j < 2^32. -/
def shardKey (i j : Nat) : Nat := i * 2 ^ 32 + j

/-- The place of a mask byte: `i > 254` is BAD_INDEX (R99, R100). -/
def maskOperand (i : Byte) : Except FaultCause Nat :=
  if i.toNat < nMax then .ok i.toNat else .error .badIndex

/-- The place of a shard byte: `i > 254` is BAD_INDEX, then `j >= BLOCK_MAX` is BAD_BLOCK (R97, R98). -/
def State.shardOperand (s : State) (i : Byte) (j : Word32) : Except FaultCause (Nat × Nat) :=
  if ¬ i.toNat < nMax then .error .badIndex
  else if ¬ j.toNat < s.blockMax.toNat then .error .badBlock
  else .ok (i.toNat, j.toNat)

/-- The operands of ENCODE and RECON: NO_CONTEXT, then BAD_COUNT, then BAD_BLOCK (R77, R83); else the block size. -/
def State.groupOperand (s : State) (cnt : Byte) (blockSize : Word32) : Except FaultCause Nat :=
  if s.ctxValid = false then .error .noContext
  else if cnt.toNat ≠ s.n then .error .badCount
  else if s.blockMax.toNat < blockSize.toNat then .error .badBlock
  else .ok blockSize.toNat

end Sys2Proof.Machine
end

