-- ==== Sys2Proof/Machine/Ops.lean ====
section
/-! DEFINITION. The named operations the meanings share: responding, taking a fault, running a command body, reading and
writing SH and MASK, and the host's reset. -/

namespace Sys2Proof.Machine

/-- What a meaning answers. -/
abbrev Result := Host.Outcome State Fault Refusal

/-- ALL_ONES, the response of a faulting or dropped command (R13, R49). -/
def allOnes : Word := 0xFFFFFFFFFFFFFFFF

/-- `respond v` (R13). -/
def State.respond (s : State) (v : Word) : State := { s with response := some v }

/-- `respond zext_64(v)` for a byte (R11, R49). -/
def State.respondByte (s : State) (v : Byte) : State := s.respond (v.setWidth 64)

/-- Fault entry, `raise Fault(c)` for the command word `cmd`: FAULTED, FCAUSE and FCMD are written, the response is
ALL_ONES, and nothing else changes (R106). -/
def State.raiseFault (s : State) (c : FaultCause) (cmd : Word) : State :=
  { s with faulted := true, fcause := c.code, fcmd := cmd, response := some allOnes }

/-- A command dropped by a faulted engine: response ALL_ONES, no state change (R107). -/
def State.drop (s : State) : State := s.respond allOnes

/-- Run a command's body, or drop the command if FAULTED = 1 (R107). The engine goes on either way. -/
def State.run (s : State) (body : State → State) : Result := .next (if s.faulted then s.drop else body s)

/-- Execute an illegal word: Fault(ILLEGAL_CMD) (R45), or dropped if FAULTED = 1 (R107). -/
def State.illegal (s : State) (cmd : Word) : State := if s.faulted then s.drop else s.raiseFault .illegalCmd cmd

/-- The body of the command word `cmd` after its operand checks: the fault they found, or the effect on the place they
found (R105: every check precedes every write). -/
def State.checked {α : Type} (s : State) (cmd : Word) (operand : Except FaultCause α) (effect : α → State) : State :=
  match operand with
  | .error c => s.raiseFault c cmd
  | .ok x => effect x

/-- `SH[i][j]`: the byte written last, or the free byte of that place if none was since reset (R12, R21, U6). -/
def State.shByte (s : State) (i j : Nat) : Byte :=
  (s.sh.read (shardKey i j)).getD (Config.freeShardByte s.resets i j)

/-- `SH[i][j] <- v` (R12). -/
def State.setShByte (s : State) (i j : Nat) (v : Byte) : State := { s with sh := s.sh.write (shardKey i j) v }

/-- `MASK[i]` (R12). -/
def State.maskByte (s : State) (i : Nat) : Byte := s.mask[i]?.getD 0x00

/-- `MASK[i] <- v` (R12). -/
def State.setMaskByte (s : State) (i : Nat) (v : Byte) : State := { s with mask := s.mask.setIfInBounds i v }

/-- `SH[r][j] <- e(r, j)` for every offset j < blockSize of row `r`, in ascending order. -/
def Memory.writeRow (m : Memory) (r blockSize : Nat) (e : Nat → Byte) : Memory :=
  (List.range blockSize).foldl (fun m j => m.write (shardKey r j) (e j)) m

/-- `SH[r][j] <- e(r, j)` for every row of `rows` and every offset j < blockSize. The values are those of the state before:
ENCODE and RECON read no row they write (R40, log entry 7). -/
def State.writeRows (s : State) (rows : List Nat) (blockSize : Nat) (e : Nat → Nat → Byte) : State :=
  { s with sh := rows.foldl (fun m r => m.writeRow r blockSize (e r)) s.sh }

/-- The host has done the first of what it was going to do. -/
def State.withHost (s : State) (rest : List HostAction) : State := { s with host := rest }

/-- Reset: every piece of state at its reset value, the next set of free bytes in shard memory (R114). BLOCK_MAX is a
constant of the engine (R24); the host goes on with the rest of what it was going to do. -/
def State.takeReset (s : State) : State := { State.resetWith s.blockMax (s.resets + 1) with host := s.host }

end Sys2Proof.Machine
end

