-- ==== Sys2Proof/Machine/Context.lean ====
section
/-! DEFINITION. The coding context: CTXNEW and CTXREL (42_context.md). -/

namespace Sys2Proof.Machine

/-- CTXNEW k, p (R74): ConfigurationError is the response 1 with no state change (R103); else the context is replaced. -/
def execCtxnew (k p : Byte) (s : State) : Result := s.run fun s =>
  if k.toNat < 1 ∨ nMax < k.toNat + p.toNat then s.respond 1
  else { s with k := k, p := p, gm := generatingMatrix k.toNat p.toNat, ctxValid := true }.respond 0

/-- CTXREL (R75). GM is then unspecified and no rule reads it (R20); the model holds none (log entry 4). -/
def execCtxrel (s : State) : Result := s.run fun s =>
  { s with ctxValid := false, k := 0, p := 0, gm := [] }.respond 0

end Sys2Proof.Machine
end

