-- ==== Sys2Proof/Machine/Encoder.lean ====
section
/-! DEFINITION. The encoder: ENCODE (43_encode.md). -/

namespace Sys2Proof.Machine

/-- The rows K..K+P-1 (R77). -/
def State.parityRows (s : State) : List Nat := List.range' s.k.toNat s.p.toNat

/-- The byte ENCODE writes at offset `j` of row `r`: `XOR_{i=0..K-1} gf_mul(GM[r][i], SH[i][j])` (R77). -/
def State.parityByte (s : State) (r j : Nat) : Byte :=
  xorSum s.k.toNat fun i => gfMul (entry s.gm r i) (s.shByte i j)

/-- ENCODE cnt, block_size (R77). -/
def execEncode (cnt : Byte) (blockSize : Word32) (s : State) : Result := s.run fun s =>
  s.checked (encode (.encode cnt blockSize)) (s.groupOperand cnt blockSize) fun size =>
    (s.writeRows s.parityRows size s.parityByte).respond 0

end Sys2Proof.Machine
end

