-- ==== Sys2Proof/Machine/FieldCommands.lean ====
section
/-! DEFINITION. The commands of the field unit: GFMUL, GFDIV (41_gf_arith.md), GFEXP, GFLOG (40_gf_tables.md). -/

namespace Sys2Proof.Machine

/-- GFMUL a, b (R63). -/
def execGfmul (a b : Byte) (s : State) : Result := s.run fun s => s.respondByte (gfMul a b)

/-- GFDIV a, b (R64): Fault(GF_DOMAIN) where the quotient is not defined, that is for b = 0x00. -/
def execGfdiv (a b : Byte) (s : State) : Result := s.run fun s =>
  match gfDiv a b with
  | none => s.raiseFault .gfDomain (encode (.gfdiv a b))
  | some q => s.respondByte q

/-- GFEXP i (R55). -/
def execGfexp (e : Byte) (s : State) : Result := s.run fun s => s.respondByte (alphaPow e.toNat)

/-- GFLOG a (R56): Fault(GF_DOMAIN) where LOG has no entry, that is for a = 0x00. -/
def execGflog (a : Byte) (s : State) : Result := s.run fun s =>
  match gfLog a with
  | none => s.raiseFault .gfDomain (encode (.gflog a))
  | some l => s.respondByte l

end Sys2Proof.Machine
end

