-- ==== Sys2Proof/Machine/HostAccess.lean ====
section
/-! DEFINITION. The host's access to shard memory, mask memory and the registers: SHWR, SHRD, MKWR, MKRD, RDCSR
(45_host_access.md). -/

namespace Sys2Proof.Machine

/-- SHWR i, j, v (R97). -/
def execShwr (shard : Byte) (offset : Word32) (v : Byte) (s : State) : Result := s.run fun s =>
  s.checked (encode (.shwr shard offset v)) (s.shardOperand shard offset) fun place =>
    (s.setShByte place.1 place.2 v).respond 0

/-- SHRD i, j (R98). -/
def execShrd (shard : Byte) (offset : Word32) (s : State) : Result := s.run fun s =>
  s.checked (encode (.shrd shard offset)) (s.shardOperand shard offset) fun place =>
    s.respondByte (s.shByte place.1 place.2)

/-- MKWR i, v (R99). -/
def execMkwr (shard v : Byte) (s : State) : Result := s.run fun s =>
  s.checked (encode (.mkwr shard v)) (maskOperand shard) fun i => (s.setMaskByte i v).respond 0

/-- MKRD i (R100). -/
def execMkrd (shard : Byte) (s : State) : Result := s.run fun s =>
  s.checked (encode (.mkrd shard)) (maskOperand shard) fun i => s.respondByte (s.maskByte i)

/-- RDCSR n (R101): executes while FAULTED = 1 too (R107). A number above 3 is no register, and its word is illegal (R45). -/
def execRdcsr (n : Byte) (s : State) : Result :=
  match s.csr n.toNat with
  | some v => .next (s.respond v)
  | none => .next (s.illegal (encode (.rdcsr n)))

end Sys2Proof.Machine
end

