-- ==== Sys2Proof/Machine/Reconstructor.lean ====
section
/-! DEFINITION. The reconstructor: row selector, linear-combination evaluator and RECON (44_reconstruct.md). The inversion
engine is `inverse` (Machine/Matrix.lean). -/

namespace Sys2Proof.Machine

/-- MISS: the marked indices below N, ascending (R83). -/
def State.missing (s : State) : List Nat := (List.range s.n).filter fun i => s.maskByte i ≠ 0x00

/-- SEL: the K smallest unmarked indices below N, ascending (R84). -/
def State.selected (s : State) : List Nat :=
  ((List.range s.n).filter fun i => s.maskByte i = 0x00).take s.k.toNat

/-- SUB: row t is row SEL[t] of GM (R85). -/
def State.subMatrix (s : State) : GfMatrix :=
  buildMatrix s.k.toNat s.k.toNat fun t c => entry s.gm (s.selected.getD t 0) c

/-- ROW for the marked index `m`: `ROW[t] = XOR_{c=0..K-1} gf_mul(GM[m][c], INV[c][t])` (R83, R89). -/
def State.coefficientRow (s : State) (inv : GfMatrix) (m : Nat) : GfRow :=
  (List.range s.k.toNat).map fun t => xorSum s.k.toNat fun c => gfMul (entry s.gm m c) (entry inv c t)

/-- The byte RECON writes at offset `j` of the marked row with coefficient row `row`:
`XOR_{t=0..K-1} gf_mul(ROW[t], SH[SEL[t]][j])` (R83, R89). -/
def State.recoveredByte (s : State) (row : GfRow) (j : Nat) : Byte :=
  xorSum s.k.toNat fun t => gfMul (row.getD t 0) (s.shByte (s.selected.getD t 0) j)

/-- RECON after its operand checks: ReconstructionFailure is the response 1 with no write (R93); no mark is a no-op (R92);
else every marked row is rewritten (R83). -/
def State.reconstruct (s : State) (cmd : Word) (blockSize : Nat) : State :=
  if s.p.toNat < s.missing.length then s.respond 1
  else if s.missing = [] then s.respond 0
  else
    match inverse s.k.toNat s.subMatrix with
    | none => s.raiseFault .internalSingular cmd
    | some inv =>
      (s.writeRows s.missing blockSize fun m => s.recoveredByte (s.coefficientRow inv m)).respond 0

/-- RECON cnt, block_size (R83). -/
def execRecon (cnt : Byte) (blockSize : Word32) (s : State) : Result := s.run fun s =>
  s.checked (encode (.recon cnt blockSize)) (s.groupOperand cnt blockSize) fun size =>
    s.reconstruct (encode (.recon cnt blockSize)) size

end Sys2Proof.Machine
end

