-- ==== Sys2Proof/Machine/Dispatch.lean ====
section
/-! DEFINITION. The meaning of every command: one arm a constructor. -/

namespace Sys2Proof.Machine

def exec (i : Instr) (s : State) : Host.Outcome State Fault Refusal :=
  match i with
  | .gfmul a b => Sys2Proof.Machine.execGfmul a b s
  | .gfdiv a b => Sys2Proof.Machine.execGfdiv a b s
  | .gfexp e => Sys2Proof.Machine.execGfexp e s
  | .gflog a => Sys2Proof.Machine.execGflog a s
  | .ctxnew k p => Sys2Proof.Machine.execCtxnew k p s
  | .ctxrel => Sys2Proof.Machine.execCtxrel s
  | .encode cnt blockSize => Sys2Proof.Machine.execEncode cnt blockSize s
  | .recon cnt blockSize => Sys2Proof.Machine.execRecon cnt blockSize s
  | .shwr shard offset v => Sys2Proof.Machine.execShwr shard offset v s
  | .shrd shard offset => Sys2Proof.Machine.execShrd shard offset s
  | .mkwr shard v => Sys2Proof.Machine.execMkwr shard v s
  | .mkrd shard => Sys2Proof.Machine.execMkrd shard s
  | .rdcsr n => Sys2Proof.Machine.execRdcsr n s

end Sys2Proof.Machine
end

