-- ==== Sys2Proof/Machine/Step.lean ====
section
/-! DEFINITION. One step of the machine: the host's next action, taken whole (R35, R36). -/

namespace Sys2Proof.Machine

/-- The step. With nothing to do the engine is idle and holds all its state (R112). A reset resets (R114). A command word is
decoded (R47) and executed; an illegal one takes Fault(ILLEGAL_CMD) (R45). A faulted engine drops what R107 says, legal word
or not: the meanings and `State.illegal` see to it. -/
def step (s : State) : Host.Outcome State Fault Refusal :=
  match s.host with
  | [] => .next s
  | .reset :: rest => .next (s.withHost rest).takeReset
  | .command cmd :: rest =>
    match decode cmd with
    | .ok i => exec i (s.withHost rest)
    | .error _ => .next ((s.withHost rest).illegal cmd)

/-- `s` with the command word `w` (its low `nbits` bits) issued next by the host. -/
def State.withFetchWord (s : State) (nbits w : Nat) : State :=
  { s with host := .command (BitVec.ofNat 64 (w % 2 ^ nbits)) :: s.host }

end Sys2Proof.Machine
end

