-- ==== Sys2Proof/Safety.lean ====
section
/-! DEFINITION. What the terms of claims mean: the invariant of the engine, and which steps are safe. -/

namespace Sys2Proof.Machine

/-- The context registers (R19, R71) and GM (R68): a held context is legal and GM is its generating matrix; without one K
and P are 0 and the model holds no entry of GM. -/
def State.ContextInv (s : State) : Prop :=
  (s.ctxValid = true → 1 ≤ s.k.toNat ∧ s.n ≤ nMax ∧ s.gm = generatingMatrix s.k.toNat s.p.toNat) ∧
  (s.ctxValid = false → s.k = 0 ∧ s.p = 0 ∧ s.gm = [])

/-- The fault registers (R23, R104): all 0 while FAULTED = 0, and a cause code of R104 in FCAUSE while FAULTED = 1. -/
def State.FaultInv (s : State) : Prop :=
  (s.faulted = false → s.fcause = 0 ∧ s.fcmd = 0) ∧
  (s.faulted = true → ∃ c : FaultCause, s.fcause = c.code)

/-- Shard memory is in canonical form and holds only bytes of shard space: rows 0..254, offsets below BLOCK_MAX (R27). -/
def State.ShardInv (s : State) : Prop :=
  Memory.wf s.sh ∧ ∀ x ∈ s.sh, ∃ i j, i < nMax ∧ j < s.blockMax.toNat ∧ x.1 = shardKey i j

/-- The invariant every step keeps; BLOCK_MAX is at least 1 (R7). -/
structure State.Inv (s : State) : Prop where
  blockMax_pos : 1 ≤ s.blockMax.toNat
  context : s.ContextInv
  faults : s.FaultInv
  shards : s.ShardInv

/-- A correct host program never ends in a faulted engine (R107): a run is safe as long as FAULTED = 0. -/
def State.Running (s : State) : Prop := s.faulted = false

/-- The fault entry of R106 as claims write it: the cause code and the word are recorded, the response is ALL_ONES, and
nothing else changes. -/
def State.faultEntry (s : State) (code : Byte) (cmd : Word) : State :=
  { s with faulted := true, fcause := code, fcmd := cmd, response := some 0xFFFFFFFFFFFFFFFF }

/-- In a running engine every word with the opcode of `o` that is `bad` takes Fault(ILLEGAL_CMD) and has no other effect
(R45), as a claim about the must-be-zero fields of one command. -/
def IllegalWhen (o : Opcode) (bad : Word → Prop) : Prop :=
  ∀ (s : State) (cmd : Word) (rest : List HostAction), s.faulted = false → s.host = .command cmd :: rest →
    opField cmd = o.code → bad cmd → step s = .next ({ s with host := rest }.faultEntry 0x01 cmd)

end Sys2Proof.Machine
end

