-- ==== Sys2Proof/Certificates/Slice0/Obligations.lean ====
section
/-! DEFINITION. The statements for the provers. Each docstring names the rule or the section of the spec it formalises. -/

open Sys2Proof Sys2Proof.Machine

/-! ## Encoding -/

/-- The words the spec writes out decode to the commands they stand for: the examples of R55, R56, R63, R64, R74, R75, R77,
R83, R97 to R101, one for each command. -/
def Obligations.SpecWordsDecode : Prop :=
  decode 0x0153CA0000000000 = .ok (.gfmul 0x53 0xCA) ∧
  decode 0x028FCA0000000000 = .ok (.gfdiv 0x8F 0xCA) ∧
  decode 0x0308000000000000 = .ok (.gfexp 8) ∧
  decode 0x041D000000000000 = .ok (.gflog 0x1D) ∧
  decode 0x1003020000000000 = .ok (.ctxnew 3 2) ∧
  decode 0x1100000000000000 = .ok .ctxrel ∧
  decode 0x2003000000000002 = .ok (.encode 3 2) ∧
  decode 0x2103000000000001 = .ok (.recon 3 1) ∧
  decode 0x30027F0000000003 = .ok (.shwr 2 3 0x7F) ∧
  decode 0x3102000000000001 = .ok (.shrd 2 1) ∧
  decode 0x3203FF0000000000 = .ok (.mkwr 3 0xFF) ∧
  decode 0x3303000000000000 = .ok (.mkrd 3) ∧
  decode 0x4000000000000000 = .ok (.rdcsr 0)

/-- Decoding the word of a well-formed command gives the command back, for every command and every operand the encoding
admits (R43, R48). -/
def Obligations.DecodeInvertsEncode : Prop :=
  ∀ i : Instr, i.wellFormed = true → decode (encode i) = .ok i

/-- A word that decodes is the word of the command it decodes to, and that command is well formed: every legal word has one
meaning and no legal word has a bit that is not an operand or fixed (R41, R42, R45). -/
def Obligations.EncodeInvertsDecode : Prop :=
  ∀ (cmd : Word) (i : Instr), decode cmd = .ok i → i.wellFormed = true ∧ encode i = cmd

/-- R44: a word is the command of a row exactly when `(w64 & mask) == match`, its operands are then the fields of the row,
and no two rows match one word. -/
def Obligations.CommandIsMaskAndMatch : Prop :=
  (∀ (cmd : Word) (o : Opcode), cmd &&& o.maskWord = o.matchWord ↔
    decode cmd = .ok (o.command (faField cmd) (fbField cmd) (wField cmd))) ∧
  (∀ (cmd : Word) (i : Instr), decode cmd = .ok i → cmd &&& i.opcode.maskWord = i.opcode.matchWord) ∧
  (∀ (cmd : Word) (o o' : Opcode), cmd &&& o.maskWord = o.matchWord → cmd &&& o'.maskWord = o'.matchWord → o = o')

/-- R45: the illegal words are exactly those of grounds (a) to (d), executing one takes Fault(ILLEGAL_CMD) and has no other
effect, and the all-zero and the all-ones word are illegal. -/
def Obligations.IllegalWordRaisesIllegalCmd : Prop :=
  (∀ cmd : Word, (∃ e, decode cmd = .error e) ↔
    opField cmd ∉ [0x01, 0x02, 0x03, 0x04, 0x10, 0x11, 0x20, 0x21, 0x30, 0x31, 0x32, 0x33, 0x40] ∨
    rsvField cmd ≠ 0 ∨
    (opField cmd ∈ [0x01, 0x02, 0x10, 0x32] ∧ wField cmd ≠ 0) ∨
    (opField cmd ∈ [0x03, 0x04, 0x33, 0x40] ∧ (fbField cmd ≠ 0 ∨ wField cmd ≠ 0)) ∨
    (opField cmd = 0x11 ∧ (faField cmd ≠ 0 ∨ fbField cmd ≠ 0 ∨ wField cmd ≠ 0)) ∨
    (opField cmd ∈ [0x20, 0x21, 0x31] ∧ fbField cmd ≠ 0) ∨
    (opField cmd = 0x40 ∧ 4 ≤ (faField cmd).toNat)) ∧
  (∀ (s : State) (cmd : Word) (rest : List HostAction) (e : IllegalWord), s.faulted = false →
    s.host = .command cmd :: rest → decode cmd = .error e →
    step s = .next ({ s with host := rest }.faultEntry 0x01 cmd)) ∧
  (∃ e, decode 0x0000000000000000 = .error e) ∧ (∃ e, decode 0xFFFFFFFFFFFFFFFF = .error e)

/-! ## The step -/

/-- A step whose next word decodes runs the decoded command, the host having gone on to the rest of its actions: nothing else
is added around the meaning (R35, R36, R47). -/
def Obligations.StepRunsDecodedCommand : Prop :=
  ∀ (s : State) (cmd : Word) (rest : List HostAction) (i : Instr), s.host = .command cmd :: rest → decode cmd = .ok i →
    step s = exec i { s with host := rest }

/-- Between commands the engine is idle and holds all its state (R112). -/
def Obligations.IdleEngineHoldsState : Prop :=
  ∀ s : State, s.host = [] → step s = .next s

/-- Reset leaves every register the value R114 states, and BLOCK_MAX as it is. That the host goes on with the rest of its
actions is the model's choice (log entry 5). -/
def Obligations.ResetGivesEveryResetValue : Prop :=
  ∀ (s : State) (rest : List HostAction), s.host = .reset :: rest → ∃ t, step s = .next t ∧
    t.ctxValid = false ∧ t.k = 0 ∧ t.p = 0 ∧ (∀ i, i < 255 → t.maskByte i = 0x00) ∧
    t.faulted = false ∧ t.fcause = 0x00 ∧ t.fcmd = 0 ∧ t.blockMax = s.blockMax ∧ t.host = rest ∧
    t.csr 0 = some 0 ∧ t.csr 1 = some 0 ∧ t.csr 2 = some 0 ∧ t.csr 3 = some (s.blockMax.setWidth 64)

/-- The state after reset meets the invariant, for every BLOCK_MAX of R7 and after any number of resets. -/
def Obligations.ResetStateMeetsInvariant : Prop :=
  (∀ (b : Word32) (r : Nat), 1 ≤ b.toNat → (State.resetWith b r).Inv) ∧ State.reset.Inv

/-- Every step keeps the invariant: a held context is legal and GM is its generating matrix (R19, R20, R71), the fault
registers are 0 or hold a cause of R104 (R23), and shard memory is in canonical form inside its space (R27, R29). -/
def Obligations.StepKeepsInvariant : Prop :=
  ∀ s t : State, s.Inv → step s = .next t → t.Inv

/-- Every command terminates with a next state, legal or not, from every state (R118, R47). -/
def Obligations.EveryStepAnswersNextState : Prop :=
  ∀ s : State, ∃ t, step s = .next t

/-- No step changes BLOCK_MAX, a constant of the engine (R7, R24). -/
def Obligations.BlockMaxNeverChanges : Prop :=
  ∀ s t : State, step s = .next t → t.blockMax = s.blockMax

/-! ## Faults -/

/-- R107: while FAULTED = 1 a legal RDCSR executes normally, and every other word, legal or not, is dropped: no state
changes and the response is ALL_ONES. -/
def Obligations.FaultedEngineDropsAllButRdcsr : Prop :=
  ∀ (s : State) (cmd : Word) (rest : List HostAction), s.faulted = true → s.host = .command cmd :: rest →
    (∀ n, decode cmd = .ok (.rdcsr n) → ∃ v, s.csr n.toNat = some v ∧
      step s = .next { s with host := rest, response := some v }) ∧
    ((∀ n, decode cmd ≠ .ok (.rdcsr n)) →
      step s = .next { s with host := rest, response := some 0xFFFFFFFFFFFFFFFF })

/-- Only reset clears FAULTED, and until reset FCAUSE and FCMD keep the first fault (R23, R108). -/
def Obligations.OnlyResetClearsFaulted : Prop :=
  ∀ s t : State, s.faulted = true → step s = .next t →
    (∃ rest, s.host = .reset :: rest) ∨ (t.faulted = true ∧ t.fcause = s.fcause ∧ t.fcmd = s.fcmd)

/-- R106: a step that takes a fault has recorded the cause and the whole command word, responded ALL_ONES, and changed
nothing else: SH, MASK, CTX_VALID, K, P and GM keep their values. -/
def Obligations.FaultEntryChangesFaultRegistersOnly : Prop :=
  ∀ s t : State, s.faulted = false → step s = .next t → t.faulted = true →
    ∃ (cmd : Word) (rest : List HostAction) (c : FaultCause), s.host = .command cmd :: rest ∧
      t = { s with host := rest, faulted := true, fcause := c.code, fcmd := cmd, response := some 0xFFFFFFFFFFFFFFFF }

/-- R29: an access outside a space is a fault and touches nothing. -/
def Obligations.AccessOutsideSpaceFaults : Prop :=
  ∀ s : State, s.faulted = false →
    (∀ (j : Word32) (v : Byte), exec (.shwr 255 j v) s = .next (s.faultEntry 0x06 (encode (.shwr 255 j v)))) ∧
    (∀ j : Word32, exec (.shrd 255 j) s = .next (s.faultEntry 0x06 (encode (.shrd 255 j)))) ∧
    (∀ v : Byte, exec (.mkwr 255 v) s = .next (s.faultEntry 0x06 (encode (.mkwr 255 v)))) ∧
    exec (.mkrd 255) s = .next (s.faultEntry 0x06 (encode (.mkrd 255))) ∧
    (∀ (i v : Byte) (j : Word32), i ≠ 255 → s.blockMax.toNat ≤ j.toNat →
      exec (.shwr i j v) s = .next (s.faultEntry 0x05 (encode (.shwr i j v))) ∧
      exec (.shrd i j) s = .next (s.faultEntry 0x05 (encode (.shrd i j)))) ∧
    (∀ (cnt : Byte) (size : Word32), s.ctxValid = true → cnt.toNat = s.n → s.blockMax.toNat < size.toNat →
      exec (.encode cnt size) s = .next (s.faultEntry 0x05 (encode (.encode cnt size))) ∧
      exec (.recon cnt size) s = .next (s.faultEntry 0x05 (encode (.recon cnt size))))

/-- The checks of ENCODE and RECON come in the order NO_CONTEXT, BAD_COUNT, BAD_BLOCK, before any look at MASK (R105). -/
def Obligations.CodingCommandsFaultInOrder : Prop :=
  ∀ (s : State) (i : Instr) (cnt : Byte) (size : Word32), s.faulted = false →
    i = .encode cnt size ∨ i = .recon cnt size →
    (s.ctxValid = false → exec i s = .next (s.faultEntry 0x03 (encode i))) ∧
    (s.ctxValid = true → cnt.toNat ≠ s.n → exec i s = .next (s.faultEntry 0x04 (encode i))) ∧
    (s.ctxValid = true → cnt.toNat = s.n → s.blockMax.toNat < size.toNat →
      exec i s = .next (s.faultEntry 0x05 (encode i)))

/-! ## The field unit -/

/-- R52: EXP starts at 01, each entry is xtime of the one before, the 255 entries are distinct and are exactly the nonzero
bytes, the powers repeat with period 255, and alpha_pow(e) is EXP[e mod 255]. -/
def Obligations.ExpTableIsPowersOfAlpha : Prop :=
  alphaPow 0 = 0x01 ∧ (∀ e : Nat, alphaPow (e + 1) = xtime (alphaPow e)) ∧
  (∀ i j : Nat, i < 255 → j < 255 → alphaPow i = alphaPow j → i = j) ∧
  (∀ a : Byte, a ≠ 0x00 ↔ ∃ i, i < 255 ∧ alphaPow i = a) ∧
  (∀ e : Nat, alphaPow (e + 255) = alphaPow e)

/-- R53: LOG[a] is the unique i in 0..254 with EXP[i] = a, for every nonzero a, and does not exist for 0x00. -/
def Obligations.LogIsInverseOfExp : Prop :=
  (∀ a : Byte, a ≠ 0x00 → ∃ l, gfLog a = some l ∧ l.toNat < 255 ∧ alphaPow l.toNat = a ∧
    ∀ i, i < 255 → alphaPow i = a → i = l.toNat) ∧
  gfLog 0x00 = none ∧ gfLog 0x01 = some 0x00 ∧ gfLog 0x02 = some 0x01 ∧
  (∀ i, i < 255 → ∃ l, gfLog (alphaPow i) = some l ∧ l.toNat = i)

/-- R59: the multiplier built on the tables is shift-and-add multiplication modulo POLY, for all byte pairs. -/
def Obligations.MultiplierIsShiftAndAdd : Prop :=
  ∀ a b : Byte, gfMul a b = clmul a b

/-- R60: the laws of the field. -/
def Obligations.FieldLaws : Prop :=
  (∀ a b : Byte, b ≠ 0x00 → ∃ q, gfDiv a b = some q) ∧
  (∀ a b : Byte, gfMul a b = gfMul b a) ∧
  (∀ a b c : Byte, gfMul (gfMul a b) c = gfMul a (gfMul b c)) ∧
  (∀ a : Byte, gfMul a 0x01 = a) ∧ (∀ a : Byte, gfMul a 0x00 = 0x00) ∧
  (∀ a b c : Byte, gfMul a (b ^^^ c) = gfMul a b ^^^ gfMul a c) ∧
  (∀ a b : Byte, gfMul a b = 0x00 → a = 0x00 ∨ b = 0x00) ∧
  (∀ a b : Byte, b ≠ 0x00 → gfDiv (gfMul a b) b = some a) ∧
  (∀ a b q : Byte, gfDiv a b = some q → gfMul q b = a) ∧
  (∀ a : Byte, gfDiv a 0x01 = some a) ∧ (∀ a : Byte, a ≠ 0x00 → gfDiv a a = some 0x01) ∧
  (∀ a : Byte, a ^^^ a = 0x00)

/-- GFMUL responds with the product of GF(256), given here by the shift-and-add product of R59 and not by the tables, writes
no state, has no fault by value, and is illegal with a must-be-zero field set (R63). -/
def Obligations.GfmulRespondsProduct : Prop :=
  (∀ (s : State) (a b : Byte), s.faulted = false →
    exec (.gfmul a b) s = .next { s with response := some ((clmul a b).setWidth 64) }) ∧
  IllegalWhen .gfmul (fun cmd => rsvField cmd ≠ 0 ∨ wField cmd ≠ 0)

/-- GFDIV responds with the unique q with gf_mul(q, b) = a and writes no state when b is not 0x00; it takes Fault(GF_DOMAIN)
for b = 0x00 and every a, and is illegal with a must-be-zero field set (R58, R64). -/
def Obligations.GfdivRespondsQuotient : Prop :=
  (∀ (s : State) (a b : Byte), s.faulted = false → b ≠ 0x00 →
    ∃ q : Byte, exec (.gfdiv a b) s = .next { s with response := some (q.setWidth 64) } ∧ gfMul q b = a ∧
      ∀ q' : Byte, gfMul q' b = a → q' = q) ∧
  (∀ (s : State) (a : Byte), s.faulted = false →
    exec (.gfdiv a 0x00) s = .next (s.faultEntry 0x02 (encode (.gfdiv a 0x00)))) ∧
  IllegalWhen .gfdiv (fun cmd => rsvField cmd ≠ 0 ∨ wField cmd ≠ 0)

/-- GFEXP responds with the power of ALPHA, got here by multiplying by x from 0x01, for every exponent, 255 among them; it
writes no state and is illegal with a must-be-zero field set (R55, R52). -/
def Obligations.GfexpRespondsPower : Prop :=
  (∀ (s : State) (e : Byte), s.faulted = false →
    exec (.gfexp e) s = .next { s with response := some ((xtime^[e.toNat] 0x01).setWidth 64) }) ∧
  IllegalWhen .gfexp (fun cmd => fbField cmd ≠ 0 ∨ rsvField cmd ≠ 0 ∨ wField cmd ≠ 0)

/-- GFLOG responds with the exponent in 0..254 whose power of ALPHA is a, and writes no state; it takes Fault(GF_DOMAIN) for
0x00 and is illegal with a must-be-zero field set (R56, R53). -/
def Obligations.GflogRespondsLogarithm : Prop :=
  (∀ (s : State) (a : Byte), s.faulted = false → a ≠ 0x00 →
    ∃ l : Byte, exec (.gflog a) s = .next { s with response := some (l.setWidth 64) } ∧ l.toNat ≤ 254 ∧
      xtime^[l.toNat] 0x01 = a) ∧
  (∀ s : State, s.faulted = false → exec (.gflog 0x00) s = .next (s.faultEntry 0x02 (encode (.gflog 0x00)))) ∧
  IllegalWhen .gflog (fun cmd => fbField cmd ≠ 0 ∨ rsvField cmd ≠ 0 ∨ wField cmd ≠ 0)

/-! ## The coding context -/

/-- CTXNEW: for k >= 1 and k + p <= 255, as natural numbers, the context is k, p and the generating matrix, the response 0,
and nothing else changes; else the response is 1, no state changes and a context held before is still held; and it is illegal
with a must-be-zero field set (R74, R71, R103). -/
def Obligations.CtxnewCreatesContext : Prop :=
  (∀ (s : State) (k p : Byte), s.faulted = false → 1 ≤ k.toNat → k.toNat + p.toNat ≤ 255 →
    exec (.ctxnew k p) s = .next { s with
      ctxValid := true, k := k, p := p, gm := generatingMatrix k.toNat p.toNat, response := some 0 }) ∧
  (∀ (s : State) (k p : Byte), s.faulted = false → (k.toNat < 1 ∨ 255 < k.toNat + p.toNat) →
    exec (.ctxnew k p) s = .next { s with response := some 1 }) ∧
  IllegalWhen .ctxnew (fun cmd => rsvField cmd ≠ 0 ∨ wField cmd ≠ 0)

/-- CTXREL clears CTX_VALID, K and P, responds 0 and touches neither SH nor MASK nor the fault registers, whether or not a
context is held (R75). GM is then open in the spec and no clause says what it holds. -/
def Obligations.CtxrelReleasesContext : Prop :=
  (∀ s : State, s.faulted = false → ∃ t, exec .ctxrel s = .next t ∧
    t = { s with ctxValid := false, k := 0, p := 0, gm := t.gm, response := some 0 }) ∧
  IllegalWhen .ctxrel (fun cmd => faField cmd ≠ 0 ∨ fbField cmd ≠ 0 ∨ rsvField cmd ≠ 0 ∨ wField cmd ≠ 0)

/-- R68: the generating matrix is V * W, where W is the unique K x K matrix with V_top * W = I_K and V[r][t] is EXP[r * t mod
255]. The inverse always exists, so the model's fallback is never taken. -/
def Obligations.GeneratingMatrixIsVandermondeTimesInverse : Prop :=
  ∀ k p : Nat, 1 ≤ k → k + p ≤ 255 → ∃ w : Nat → Nat → Byte,
    (∀ r c, r < k → c < k →
      (xorSum k fun t => gfMul (alphaPow (r * t)) (w t c)) = if r = c then 0x01 else 0x00) ∧
    (∀ w' : Nat → Nat → Byte, (∀ r c, r < k → c < k →
      (xorSum k fun t => gfMul (alphaPow (r * t)) (w' t c)) = if r = c then 0x01 else 0x00) →
      ∀ t c, t < k → c < k → w' t c = w t c) ∧
    (∀ r c, r < k + p → c < k →
      entry (generatingMatrix k p) r c = xorSum k fun t => gfMul (alphaPow (r * t)) (w t c))

/-- R69: the first K rows of the generating matrix are the identity, and a row two contexts with one K both have is the same
in both. -/
def Obligations.GeneratingMatrixIsSystematic : Prop :=
  (∀ k p r c : Nat, 1 ≤ k → k + p ≤ 255 → r < k → c < k →
    entry (generatingMatrix k p) r c = if r = c then 0x01 else 0x00) ∧
  (∀ k p p' r c : Nat, 1 ≤ k → k + p ≤ 255 → k + p' ≤ 255 → r < k + p → r < k + p' → c < k →
    entry (generatingMatrix k p) r c = entry (generatingMatrix k p') r c)

/-- R70, the MDS property: for every choice of K distinct rows of the generating matrix, the K x K matrix of those rows is
invertible. -/
def Obligations.AnyKRowsAreInvertible : Prop :=
  ∀ (k p : Nat) (row : Nat → Nat), 1 ≤ k → k + p ≤ 255 → (∀ t, t < k → row t < k + p) →
    (∀ t u, t < u → u < k → row t < row u) → ∃ b : Nat → Nat → Byte, ∀ t c, t < k → c < k →
      (xorSum k fun u => gfMul (entry (generatingMatrix k p) (row t) u) (b u c)) = (if t = c then 0x01 else 0x00) ∧
      (xorSum k fun u => gfMul (b t u) (entry (generatingMatrix k p) (row u) c)) = (if t = c then 0x01 else 0x00)

/-- CTX_VALID, K, P and GM change only by CTXNEW, CTXREL and reset: between them the context is immutable (R19, R73). -/
def Obligations.ContextChangesOnlyByItsCommands : Prop :=
  ∀ s t : State, step s = .next t →
    (t.ctxValid = s.ctxValid ∧ t.k = s.k ∧ t.p = s.p ∧ t.gm = s.gm) ∨
    (∃ rest, s.host = .reset :: rest) ∨
    (∃ cmd rest, s.host = .command cmd :: rest ∧ s.faulted = false ∧
      ((∃ k p, decode cmd = .ok (.ctxnew k p)) ∨ decode cmd = .ok .ctxrel))

/-! ## The encoder -/

/-- R77: with a context, cnt = N and a block that fits, ENCODE responds 0, writes the byte
XOR_{i<K} gf_mul(GM[r][i], SH[i][j]) to SH[r][j] for K <= r < N and j < block_size, and changes no other byte of SH and no
other state. Else it faults with NO_CONTEXT, BAD_COUNT or BAD_BLOCK, checked in this order, and writes nothing. It is illegal
with a must-be-zero field set. -/
def Obligations.EncodeWritesParityRows : Prop :=
  (∀ (s : State) (cnt : Byte) (size : Word32), s.faulted = false → s.ctxValid = true → cnt.toNat = s.n →
    size.toNat ≤ s.blockMax.toNat → ∃ t, exec (.encode cnt size) s = .next t ∧
      t = { s with sh := t.sh, response := some 0 } ∧
      ∀ r j, j < 2 ^ 32 → t.shByte r j =
        if s.k.toNat ≤ r ∧ r < s.k.toNat + s.p.toNat ∧ j < size.toNat then
          xorSum s.k.toNat fun i => gfMul (entry s.gm r i) (s.shByte i j)
        else s.shByte r j) ∧
  (∀ (s : State) (cnt : Byte) (size : Word32), s.faulted = false →
    (s.ctxValid = false → exec (.encode cnt size) s = .next (s.faultEntry 0x03 (encode (.encode cnt size)))) ∧
    (s.ctxValid = true → cnt.toNat ≠ s.n →
      exec (.encode cnt size) s = .next (s.faultEntry 0x04 (encode (.encode cnt size)))) ∧
    (s.ctxValid = true → cnt.toNat = s.n → s.blockMax.toNat < size.toNat →
      exec (.encode cnt size) s = .next (s.faultEntry 0x05 (encode (.encode cnt size))))) ∧
  IllegalWhen .encode (fun cmd => fbField cmd ≠ 0 ∨ rsvField cmd ≠ 0)

/-- Running ENCODE twice leaves the same SH as running it once, as equal data: it reads only rows it does not write (R77,
R40). -/
def Obligations.EncodeTwiceEqualsOnce : Prop :=
  ∀ (s t : State) (cnt : Byte) (size : Word32), s.faulted = false → exec (.encode cnt size) s = .next t →
    t.response = some 0 → exec (.encode cnt size) t = .next t

/-- R81: ENCODE is linear in the data. If the data rows of three engines with one context satisfy D'' = D ^ D' at the offsets
encoded, so do the parity rows after ENCODE; all-zero data gives all-zero parity; and the data shard c = 0x01 with every
other data byte 0x00 gives GM[r][c] in parity row r. -/
def Obligations.EncodeIsLinear : Prop :=
  ∀ (s t : State) (cnt : Byte) (size : Word32), s.faulted = false → s.ctxValid = true → cnt.toNat = s.n →
    size.toNat ≤ s.blockMax.toNat → exec (.encode cnt size) s = .next t →
    (∀ (s' t' s'' t'' : State), s' = { s with sh := s'.sh } → s'' = { s with sh := s''.sh } →
      exec (.encode cnt size) s' = .next t' → exec (.encode cnt size) s'' = .next t'' →
      (∀ i j, i < s.k.toNat → j < size.toNat → s''.shByte i j = s.shByte i j ^^^ s'.shByte i j) →
      ∀ r j, s.k.toNat ≤ r → r < s.n → j < size.toNat → t''.shByte r j = t.shByte r j ^^^ t'.shByte r j) ∧
    (∀ j, j < size.toNat → (∀ i, i < s.k.toNat → s.shByte i j = 0x00) →
      ∀ r, s.k.toNat ≤ r → r < s.n → t.shByte r j = 0x00) ∧
    (∀ j c, j < size.toNat → c < s.k.toNat →
      (∀ i, i < s.k.toNat → s.shByte i j = if i = c then 0x01 else 0x00) →
      ∀ r, s.k.toNat ≤ r → r < s.n → t.shByte r j = entry s.gm r c)

/-- R78: byte offsets are independent lanes. Two engines with one context and the same data bytes at one offset have the same
parity bytes there after ENCODE, those of the matrix-vector product, whatever the other offsets, the parity rows and the masks
held. -/
def Obligations.EncodeOffsetsAreIndependentLanes : Prop :=
  ∀ (s t s' t' : State) (cnt : Byte) (size size' : Word32) (j : Nat), s.faulted = false → s'.faulted = false →
    s.ctxValid = true → s'.ctxValid = true → s'.k = s.k → s'.p = s.p → s'.gm = s.gm → cnt.toNat = s.n →
    size.toNat ≤ s.blockMax.toNat → size'.toNat ≤ s'.blockMax.toNat →
    exec (.encode cnt size) s = .next t → exec (.encode cnt size') s' = .next t' →
    j < size.toNat → j < size'.toNat → (∀ i, i < s.k.toNat → s'.shByte i j = s.shByte i j) →
    ∀ r, s.k.toNat ≤ r → r < s.n → t'.shByte r j = t.shByte r j ∧
      t.shByte r j = xorSum s.k.toNat fun i => gfMul (entry s.gm r i) (s.shByte i j)

/-- R80: after ENCODE the N rows form a codeword at every offset: row r is GM[r] times the data rows, data and parity rows
alike. -/
def Obligations.EncodeGivesCodeword : Prop :=
  ∀ (s t : State) (cnt : Byte) (size : Word32), s.Inv → s.faulted = false → s.ctxValid = true → cnt.toNat = s.n →
    size.toNat ≤ s.blockMax.toNat → exec (.encode cnt size) s = .next t →
    ∀ r j, r < s.n → j < size.toNat →
      t.shByte r j = xorSum s.k.toNat fun i => gfMul (entry s.gm r i) (t.shByte i j)

/-! ## The reconstructor -/

/-- R83, the effect with 1..P marks below N: RECON responds 0, writes the byte XOR_{t<K} gf_mul(ROW[t], SH[SEL[t]][j]) to
SH[m][j] for every marked m < N and j < block_size, where ROW = GM[m] * INV, and changes no other byte of SH and no other
state. INV is the inverse the inversion engine gives for SUB; that there is one is ReconNeverFindsSubmatrixSingular. -/
def Obligations.ReconRewritesMarkedRows : Prop :=
  (∀ (s : State) (cnt : Byte) (size : Word32) (inv : GfMatrix), s.faulted = false → s.ctxValid = true →
    cnt.toNat = s.n → size.toNat ≤ s.blockMax.toNat → 1 ≤ s.missing.length → s.missing.length ≤ s.p.toNat →
    inverse s.k.toNat s.subMatrix = some inv → ∃ t, exec (.recon cnt size) s = .next t ∧
      t = { s with sh := t.sh, response := some 0 } ∧
      ∀ m j, j < 2 ^ 32 → t.shByte m j =
        if m < s.n ∧ s.maskByte m ≠ 0x00 ∧ j < size.toNat then
          xorSum s.k.toNat fun u =>
            gfMul (xorSum s.k.toNat fun c => gfMul (entry s.gm m c) (entry inv c u)) (s.shByte (s.selected.getD u 0) j)
        else s.shByte m j) ∧
  IllegalWhen .recon (fun cmd => fbField cmd ≠ 0 ∨ rsvField cmd ≠ 0)

/-- RECON completes from every reachable engine state with 1..P marks: it responds 0, and only the marked rows below N change,
below block_size (R83, R88). -/
def Obligations.ReconCompletesUpToPMarks : Prop :=
  ∀ (s : State) (cnt : Byte) (size : Word32), s.Inv → s.faulted = false → s.ctxValid = true → cnt.toNat = s.n →
    size.toNat ≤ s.blockMax.toNat → 1 ≤ s.missing.length → s.missing.length ≤ s.p.toNat →
    ∃ t, exec (.recon cnt size) s = .next t ∧ t = { s with sh := t.sh, response := some 0 } ∧
      ∀ m j, j < 2 ^ 32 → ¬ (m < s.n ∧ s.maskByte m ≠ 0x00 ∧ j < size.toNat) → t.shByte m j = s.shByte m j

/-- R92: with no marked index below N RECON responds 0 and changes no state; marks at N and above do not count. -/
def Obligations.ReconWithoutMarksIsNoop : Prop :=
  ∀ (s : State) (cnt : Byte) (size : Word32), s.faulted = false → s.ctxValid = true → cnt.toNat = s.n →
    size.toNat ≤ s.blockMax.toNat → (∀ i, i < s.n → s.maskByte i = 0x00) →
    exec (.recon cnt size) s = .next { s with response := some 0 }

/-- R93: with more than P marked indices below N RECON responds 1 and changes no state; with P = 0 any single mark does. -/
def Obligations.ReconWithTooManyMarksChangesNothing : Prop :=
  ∀ (s : State) (cnt : Byte) (size : Word32), s.faulted = false → s.ctxValid = true → cnt.toNat = s.n →
    size.toNat ≤ s.blockMax.toNat →
    (s.p.toNat < ((List.range s.n).filter fun i => s.maskByte i ≠ 0x00).length →
      exec (.recon cnt size) s = .next { s with response := some 1 }) ∧
    (s.p = 0 → (∃ i, i < s.n ∧ s.maskByte i ≠ 0x00) → exec (.recon cnt size) s = .next { s with response := some 1 })

/-- R84: with at most P marks below N the row selector finds K unmarked indices below N, strictly increasing, and takes the
first ones: an unmarked index below N that is not selected is above all that are. -/
def Obligations.RowSelectorTakesFirstUnmarked : Prop :=
  ∀ s : State, s.missing.length ≤ s.p.toNat →
    s.selected.length = s.k.toNat ∧ s.selected.Pairwise (· < ·) ∧
    (∀ i ∈ s.selected, i < s.n ∧ s.maskByte i = 0x00) ∧
    (∀ i, i < s.n → s.maskByte i = 0x00 → i ∉ s.selected → ∀ u ∈ s.selected, u < i)

/-- R86, R87: what the inversion engine returns for an n x n matrix is its inverse on both sides, and the only one; and it
returns one whenever there is a right inverse. -/
def Obligations.InversionEngineGivesTheInverse : Prop :=
  (∀ (n : Nat) (a b : GfMatrix), inverse n a = some b →
    (∀ r c, r < n → c < n →
      (xorSum n fun t => gfMul (entry a r t) (entry b t c)) = (if r = c then 0x01 else 0x00) ∧
      (xorSum n fun t => gfMul (entry b r t) (entry a t c)) = (if r = c then 0x01 else 0x00)) ∧
    (∀ b' : Nat → Nat → Byte,
      (∀ r c, r < n → c < n → (xorSum n fun t => gfMul (entry a r t) (b' t c)) = if r = c then 0x01 else 0x00) →
      ∀ r c, r < n → c < n → b' r c = entry b r c)) ∧
  (∀ (n : Nat) (a : GfMatrix) (b' : Nat → Nat → Byte),
    (∀ r c, r < n → c < n → (xorSum n fun t => gfMul (entry a r t) (b' t c)) = if r = c then 0x01 else 0x00) →
    ∃ b, inverse n a = some b)

/-- R88: with a context and at most P marks below N the elimination of SUB finds every pivot it looks for, and
Fault(INTERNAL_SINGULAR) is never raised: no step of an engine that meets the invariant and is running leads to FCAUSE = 07. -/
def Obligations.ReconNeverFindsSubmatrixSingular : Prop :=
  (∀ s : State, s.Inv → s.ctxValid = true → s.missing.length ≤ s.p.toNat →
    ∃ inv, inverse s.k.toNat s.subMatrix = some inv) ∧
  (∀ s t : State, s.Inv → s.faulted = false → step s = .next t → t.fcause ≠ 0x07)

/-- R90: if the selected shards are rows of one codeword, a successful RECON leaves every marked shard at its row of that
codeword, whatever the marked rows and the unselected rows held. -/
def Obligations.ReconRecoversCodeword : Prop :=
  ∀ (s : State) (cnt : Byte) (size : Word32) (d : Nat → Nat → Byte), s.Inv → s.faulted = false → s.ctxValid = true →
    cnt.toNat = s.n → size.toNat ≤ s.blockMax.toNat → s.missing.length ≤ s.p.toNat →
    (∀ u j, u < s.k.toNat → j < size.toNat → s.shByte (s.selected.getD u 0) j =
      xorSum s.k.toNat fun c => gfMul (entry s.gm (s.selected.getD u 0) c) (d c j)) →
    ∃ t, exec (.recon cnt size) s = .next t ∧ t.response = some 0 ∧
      ∀ m ∈ s.missing, ∀ j, j < size.toNat → t.shByte m j = xorSum s.k.toNat fun c => gfMul (entry s.gm m c) (d c j)

/-- The round trip of the source, R90: ENCODE, then any state with the same context in which at most P shards are marked and
the unmarked rows still hold what ENCODE left, then RECON, gives back every byte of all N rows. -/
def Obligations.EncodeThenReconRestoresAllShards : Prop :=
  ∀ (s t u : State) (cnt : Byte) (size : Word32), s.Inv → s.faulted = false → s.ctxValid = true → cnt.toNat = s.n →
    size.toNat ≤ s.blockMax.toNat → exec (.encode cnt size) s = .next t →
    u.Inv → u.faulted = false → u.ctxValid = true → u.k = t.k → u.p = t.p → size.toNat ≤ u.blockMax.toNat →
    u.missing.length ≤ u.p.toNat →
    (∀ i j, i < u.n → u.maskByte i = 0x00 → j < size.toNat → u.shByte i j = t.shByte i j) →
    ∃ v, exec (.recon cnt size) u = .next v ∧ v.response = some 0 ∧
      ∀ i j, i < u.n → j < size.toNat → v.shByte i j = t.shByte i j

/-- R91: RECON writes a function of the K selected rows and of nothing else, and never checks them. Two engines that agree on
the context, on which indices below N are marked and on the selected rows both respond 0 and write the same bytes, whether or
not the rows are of one codeword, and whatever an unselected row, a marked row or a mark at N and above holds. -/
def Obligations.ReconDependsOnSelectedRowsOnly : Prop :=
  ∀ (s s' : State) (cnt : Byte) (size : Word32), s.Inv → s.faulted = false → s'.faulted = false →
    s.ctxValid = true → s'.ctxValid = true → s'.k = s.k → s'.p = s.p → s'.gm = s.gm → s'.blockMax = s.blockMax →
    cnt.toNat = s.n → size.toNat ≤ s.blockMax.toNat → s.missing.length ≤ s.p.toNat →
    (∀ i, i < s.n → (s'.maskByte i = 0x00 ↔ s.maskByte i = 0x00)) →
    (∀ i ∈ s.selected, ∀ j, j < size.toNat → s'.shByte i j = s.shByte i j) →
    ∃ t t', exec (.recon cnt size) s = .next t ∧ exec (.recon cnt size) s' = .next t' ∧
      t.response = some 0 ∧ t'.response = some 0 ∧
      ∀ m ∈ s.missing, ∀ j, j < size.toNat → t'.shByte m j = t.shByte m j

/-! ## Host access -/

/-- R97: SHWR sets SH[i][j], responds 0 and changes no other byte of SH and no other state; BAD_INDEX, then BAD_BLOCK, write
nothing; and it is illegal with a must-be-zero field set. -/
def Obligations.ShwrStoresOneByte : Prop :=
  (∀ (s : State) (i v : Byte) (j : Word32), s.faulted = false → i.toNat ≤ 254 → j.toNat < s.blockMax.toNat →
    ∃ t, exec (.shwr i j v) s = .next t ∧ t = { s with sh := t.sh, response := some 0 } ∧
      t.shByte i.toNat j.toNat = v ∧
      ∀ i' j', j' < 2 ^ 32 → ¬ (i' = i.toNat ∧ j' = j.toNat) → t.shByte i' j' = s.shByte i' j') ∧
  (∀ (s : State) (i v : Byte) (j : Word32), s.faulted = false → 254 < i.toNat →
    exec (.shwr i j v) s = .next (s.faultEntry 0x06 (encode (.shwr i j v)))) ∧
  (∀ (s : State) (i v : Byte) (j : Word32), s.faulted = false → i.toNat ≤ 254 → s.blockMax.toNat ≤ j.toNat →
    exec (.shwr i j v) s = .next (s.faultEntry 0x05 (encode (.shwr i j v)))) ∧
  IllegalWhen .shwr (fun cmd => rsvField cmd ≠ 0)

/-- R98: SHRD responds with SH[i][j], zero-extended, and writes no state; BAD_INDEX comes before BAD_BLOCK; and it is illegal
with a must-be-zero field set. -/
def Obligations.ShrdReadsOneByte : Prop :=
  (∀ (s : State) (i : Byte) (j : Word32), s.faulted = false → i.toNat ≤ 254 → j.toNat < s.blockMax.toNat →
    exec (.shrd i j) s = .next { s with response := some ((s.shByte i.toNat j.toNat).setWidth 64) }) ∧
  (∀ (s : State) (i : Byte) (j : Word32), s.faulted = false → 254 < i.toNat →
    exec (.shrd i j) s = .next (s.faultEntry 0x06 (encode (.shrd i j)))) ∧
  (∀ (s : State) (i : Byte) (j : Word32), s.faulted = false → i.toNat ≤ 254 → s.blockMax.toNat ≤ j.toNat →
    exec (.shrd i j) s = .next (s.faultEntry 0x05 (encode (.shrd i j)))) ∧
  IllegalWhen .shrd (fun cmd => fbField cmd ≠ 0 ∨ rsvField cmd ≠ 0)

/-- R99: MKWR sets MASK[i] to the byte as written, responds 0 and changes nothing else, SH among it; BAD_INDEX for i = 255;
and it is illegal with a must-be-zero field set. -/
def Obligations.MkwrStoresMaskByte : Prop :=
  (∀ (s : State) (i v : Byte), s.faulted = false → i.toNat ≤ 254 →
    ∃ t, exec (.mkwr i v) s = .next t ∧ t = { s with mask := t.mask, response := some 0 } ∧
      ∀ i', t.maskByte i' = if i' = i.toNat then v else s.maskByte i') ∧
  (∀ (s : State) (v : Byte), s.faulted = false →
    exec (.mkwr 255 v) s = .next (s.faultEntry 0x06 (encode (.mkwr 255 v)))) ∧
  IllegalWhen .mkwr (fun cmd => rsvField cmd ≠ 0 ∨ wField cmd ≠ 0)

/-- R100: MKRD responds with MASK[i], zero-extended, and writes no state; BAD_INDEX for i = 255; it is illegal with a
must-be-zero field set; and after reset every entry reads 0x00. -/
def Obligations.MkrdReadsMaskByte : Prop :=
  (∀ (s : State) (i : Byte), s.faulted = false → i.toNat ≤ 254 →
    exec (.mkrd i) s = .next { s with response := some ((s.maskByte i.toNat).setWidth 64) }) ∧
  (∀ s : State, s.faulted = false → exec (.mkrd 255) s = .next (s.faultEntry 0x06 (encode (.mkrd 255)))) ∧
  IllegalWhen .mkrd (fun cmd => fbField cmd ≠ 0 ∨ rsvField cmd ≠ 0 ∨ wField cmd ≠ 0) ∧
  (∀ (b : Word32) (r : Nat) (i : Byte), i.toNat ≤ 254 →
    exec (.mkrd i) (State.resetWith b r) = .next { State.resetWith b r with response := some 0 })

/-- R101: RDCSR responds STATUS, FCAUSE, FCMD or BLKMAX in the layout of R24, zero-extended, and writes no state, in a running
and in a faulted engine; a number of 4 or more is illegal in a running engine and dropped in a faulted one; and it is illegal
with a must-be-zero field set. -/
def Obligations.RdcsrReadsRegisters : Prop :=
  (∀ s : State, ∃ status : Word,
    status.toNat = s.p.toNat * 2 ^ 16 + s.k.toNat * 2 ^ 8 + s.faulted.toNat * 2 + s.ctxValid.toNat ∧
    exec (.rdcsr 0) s = .next { s with response := some status }) ∧
  (∀ s : State, exec (.rdcsr 1) s = .next { s with response := some (s.fcause.setWidth 64) }) ∧
  (∀ s : State, exec (.rdcsr 2) s = .next { s with response := some s.fcmd }) ∧
  (∀ s : State, exec (.rdcsr 3) s = .next { s with response := some (s.blockMax.setWidth 64) }) ∧
  (∀ (s : State) (cmd : Word) (rest : List HostAction), s.host = .command cmd :: rest → opField cmd = 0x40 →
    (4 ≤ (faField cmd).toNat ∨ fbField cmd ≠ 0 ∨ rsvField cmd ≠ 0 ∨ wField cmd ≠ 0) →
    (s.faulted = false → step s = .next ({ s with host := rest }.faultEntry 0x01 cmd)) ∧
    (s.faulted = true → step s = .next { s with host := rest, response := some 0xFFFFFFFFFFFFFFFF }))

/-- No read has a side effect (R33): SHRD, MKRD, GFEXP, GFLOG and RDCSR change no state but the response, where they take no
fault. -/
def Obligations.ReadsHaveNoSideEffect : Prop :=
  ∀ (s t : State) (i : Instr), exec i s = .next t → t.faulted = s.faulted →
    ((∃ a j, i = .shrd a j) ∨ (∃ a, i = .mkrd a) ∨ (∃ e, i = .gfexp e) ∨ (∃ a, i = .gflog a) ∨ (∃ n, i = .rdcsr n)) →
    t = { s with response := t.response }

/-- Every write is idempotent (R33): writing the same value twice leaves the same state, as equal data, as writing it once. -/
def Obligations.WritesAreIdempotent : Prop :=
  ∀ (s t : State) (i : Instr), exec i s = .next t →
    ((∃ a j v, i = .shwr a j v) ∨ (∃ a v, i = .mkwr a v)) → exec i t = .next t

/-- Who writes shard memory (R21): a byte changes in a step only by SHWR to its place, by ENCODE in a parity row or by RECON
in a marked row below N, both below block_size, or by reset. Rows at N and above and offsets at block_size and above are
touched by neither coding command. -/
def Obligations.ShardByteChangesOnlyByItsWriters : Prop :=
  ∀ (s t : State) (i j : Nat), step s = .next t → j < 2 ^ 32 → t.shByte i j ≠ s.shByte i j →
    (∃ rest, s.host = .reset :: rest) ∨
    ∃ cmd rest, s.host = .command cmd :: rest ∧ s.faulted = false ∧
      ((∃ (a : Byte) (b : Word32) (v : Byte), decode cmd = .ok (.shwr a b v) ∧ i = a.toNat ∧ j = b.toNat ∧ t.shByte i j = v) ∨
       (∃ cnt size, decode cmd = .ok (.encode cnt size) ∧ s.k.toNat ≤ i ∧ i < s.n ∧ j < size.toNat) ∨
       (∃ cnt size, decode cmd = .ok (.recon cnt size) ∧ i < s.n ∧ s.maskByte i ≠ 0x00 ∧ j < size.toNat))

/-- Who writes the erasure mask (R22): only MKWR, to its index, and reset. -/
def Obligations.MaskChangesOnlyByMkwr : Prop :=
  ∀ (s t : State) (i : Nat), step s = .next t → t.maskByte i ≠ s.maskByte i →
    (∃ rest, s.host = .reset :: rest) ∨
    ∃ cmd rest v, s.host = .command cmd :: rest ∧ s.faulted = false ∧ t.maskByte i = v ∧
      ∃ a : Byte, decode cmd = .ok (.mkwr a v) ∧ a.toNat = i

/-- Every read returns the value of the latest write (R36): a byte written by SHWR, or a mask byte by MKWR, is what the
next SHRD, or MKRD, of that place responds. -/
def Obligations.ReadReturnsLatestWrite : Prop :=
  (∀ (s t : State) (i v : Byte) (j : Word32), s.faulted = false → exec (.shwr i j v) s = .next t →
    t.response = some 0 → ∃ u, exec (.shrd i j) t = .next u ∧ u.response = some (v.setWidth 64)) ∧
  (∀ (s t : State) (i v : Byte), s.faulted = false → exec (.mkwr i v) s = .next t →
    t.response = some 0 → ∃ u, exec (.mkrd i) t = .next u ∧ u.response = some (v.setWidth 64))
end

