-- ==== Sys2Proof/Laws/Memory.lean ====
section
/-! SUPPORT. What a read answers after a write, and that every memory operation keeps the canonical form. -/

namespace Sys2Proof.Machine

@[simp] theorem Memory.unlisted_eq (a : Nat) : Memory.unlisted a = none := rfl

@[simp] theorem Memory.read_nil (a : Nat) : Memory.read [] a = none := rfl

/-- A read after a write to the same place gives the byte written. -/
@[simp] theorem Memory.read_write_same (m : Memory) (a : Nat) (v : Byte) : (m.write a v).read a = some v := by
  induction m with
  | nil => simp [Memory.write, Memory.read]
  | cons x rest ih =>
    obtain ⟨b, u⟩ := x
    by_cases h₁ : a < b
    · simp [Memory.write, Memory.read, h₁]
    · by_cases h₂ : a = b
      · simp [Memory.write, Memory.read, h₂]
      · simp [Memory.write, Memory.read, h₁, h₂, ih]

/-- A write leaves every other place alone. -/
theorem Memory.read_write_other (m : Memory) {a b : Nat} (v : Byte) (h : b ≠ a) : (m.write a v).read b = m.read b := by
  induction m with
  | nil => simp [Memory.write, Memory.read, h]
  | cons x rest ih =>
    obtain ⟨c, u⟩ := x
    by_cases h₁ : a < c
    · simp [Memory.write, Memory.read, h₁, h]
    · by_cases h₂ : a = c
      · subst h₂
        simp [Memory.write, Memory.read, h]
      · simp [Memory.write, Memory.read, h₁, h₂, ih]

/-- The entries after a write are the one written and entries from before. -/
theorem Memory.mem_write {m : Memory} {a : Nat} {v : Byte} {x : Host.Cell} (h : x ∈ m.write a v) :
    x = (a, v) ∨ x ∈ m := by
  induction m with
  | nil => simpa [Memory.write] using h
  | cons y rest ih =>
    obtain ⟨b, u⟩ := y
    by_cases h₁ : a < b
    · simpa [Memory.write, h₁] using h
    · by_cases h₂ : a = b
      · subst h₂
        rcases (by simpa [Memory.write] using h : x = (a, v) ∨ x ∈ rest) with h | h
        · exact .inl h
        · exact .inr (List.mem_cons_of_mem _ h)
      · rcases (by simpa [Memory.write, h₁, h₂] using h : x = (b, u) ∨ x ∈ Memory.write rest a v) with h | h
        · exact .inr (by simp [h])
        · exact (ih h).imp_right (List.mem_cons_of_mem _)

/-- A write keeps the canonical form. -/
theorem Memory.write_wf {m : Memory} (a : Nat) (v : Byte) (h : Memory.wf m) : Memory.wf (m.write a v) := by
  refine ⟨?_, by simp⟩
  replace h := h.1
  induction m with
  | nil => simp [Memory.write]
  | cons x rest ih =>
    obtain ⟨b, u⟩ := x
    rw [List.pairwise_cons] at h
    by_cases h₁ : a < b
    · simp only [Memory.write, h₁, if_true, List.pairwise_cons]
      refine ⟨fun y hy => ?_, h⟩
      rcases List.mem_cons.mp hy with rfl | hy
      · exact h₁
      · exact Nat.lt_trans h₁ (h.1 y hy)
    · by_cases h₂ : a = b
      · subst h₂
        simpa [Memory.write] using h
      · simp only [Memory.write, h₁, h₂, if_false, List.pairwise_cons]
        refine ⟨fun y hy => ?_, ih h.2⟩
        rcases Memory.mem_write hy with rfl | hy
        · show b < a
          omega
        · exact h.1 y hy

/-- A run of bytes written into one row: what a read answers, that the form is kept, and where the entries come from. -/
theorem Memory.read_writeRow (m : Memory) (r size : Nat) (e : Nat → Byte) (a : Nat) :
    (m.writeRow r size e).read a =
      if shardKey r 0 ≤ a ∧ a < shardKey r size then some (e (a - shardKey r 0)) else m.read a := by
  induction size with
  | zero => simp [Memory.writeRow, show ¬ (shardKey r 0 ≤ a ∧ a < shardKey r 0) by omega]
  | succ n ih =>
    have hstep : m.writeRow r (n + 1) e = (m.writeRow r n e).write (shardKey r n) (e n) := by
      simp [Memory.writeRow, List.range_succ]
    rw [hstep]
    by_cases h : a = shardKey r n
    · subst h
      simp [shardKey]
    · rw [Memory.read_write_other _ _ h, ih]
      simp only [shardKey] at *
      congr 1
      simp only [eq_iff_iff]
      omega

theorem Memory.writeRow_wf {m : Memory} (r size : Nat) (e : Nat → Byte) (h : Memory.wf m) :
    Memory.wf (m.writeRow r size e) := by
  induction size with
  | zero => simpa [Memory.writeRow] using h
  | succ n ih => simpa [Memory.writeRow, List.range_succ] using Memory.write_wf (shardKey r n) (e n) ih

theorem Memory.mem_writeRow {m : Memory} {r size : Nat} {e : Nat → Byte} {x : Host.Cell}
    (h : x ∈ m.writeRow r size e) : (∃ j, j < size ∧ x.1 = shardKey r j) ∨ x ∈ m := by
  induction size with
  | zero => exact .inr (by simpa [Memory.writeRow] using h)
  | succ n ih =>
    have h' : x ∈ (m.writeRow r n e).write (shardKey r n) (e n) := by
      simpa [Memory.writeRow, List.range_succ] using h
    rcases Memory.mem_write h' with rfl | h'
    · exact .inl ⟨n, by omega, rfl⟩
    · exact (ih h').imp_left fun ⟨j, hj, hx⟩ => ⟨j, by omega, hx⟩

/-- Two places of shard space have one number only if they are one place. -/
theorem shardKey_inj {i j i' j' : Nat} (hj : j < 2 ^ 32) (hj' : j' < 2 ^ 32) :
    shardKey i j = shardKey i' j' ↔ i = i' ∧ j = j' := by
  simp only [shardKey]
  omega

/-- The memory of the reset state is in canonical form. -/
theorem resetWith_memory_wf (b : Word32) (r : Nat) : Memory.wf (State.resetWith b r).sh := by
  exact ⟨List.Pairwise.nil, fun _ h => nomatch h⟩

end Sys2Proof.Machine
end

