-- ==== Sys2Proof/Laws/State.lean ====
section
/-! SUPPORT. One lemma for each field of the state and each named update, so that no proof unfolds a record update. -/

namespace Sys2Proof.Machine

variable (s : State)

@[simp] theorem respond_ctxValid (v : Word) : (s.respond v).ctxValid = s.ctxValid := rfl
@[simp] theorem respond_k (v : Word) : (s.respond v).k = s.k := rfl
@[simp] theorem respond_p (v : Word) : (s.respond v).p = s.p := rfl
@[simp] theorem respond_gm (v : Word) : (s.respond v).gm = s.gm := rfl
@[simp] theorem respond_sh (v : Word) : (s.respond v).sh = s.sh := rfl
@[simp] theorem respond_mask (v : Word) : (s.respond v).mask = s.mask := rfl
@[simp] theorem respond_faulted (v : Word) : (s.respond v).faulted = s.faulted := rfl
@[simp] theorem respond_fcause (v : Word) : (s.respond v).fcause = s.fcause := rfl
@[simp] theorem respond_fcmd (v : Word) : (s.respond v).fcmd = s.fcmd := rfl
@[simp] theorem respond_blockMax (v : Word) : (s.respond v).blockMax = s.blockMax := rfl
@[simp] theorem respond_resets (v : Word) : (s.respond v).resets = s.resets := rfl
@[simp] theorem respond_host (v : Word) : (s.respond v).host = s.host := rfl
@[simp] theorem respond_response (v : Word) : (s.respond v).response = some v := rfl

@[simp] theorem respondByte_ctxValid (v : Byte) : (s.respondByte v).ctxValid = s.ctxValid := rfl
@[simp] theorem respondByte_k (v : Byte) : (s.respondByte v).k = s.k := rfl
@[simp] theorem respondByte_p (v : Byte) : (s.respondByte v).p = s.p := rfl
@[simp] theorem respondByte_gm (v : Byte) : (s.respondByte v).gm = s.gm := rfl
@[simp] theorem respondByte_sh (v : Byte) : (s.respondByte v).sh = s.sh := rfl
@[simp] theorem respondByte_mask (v : Byte) : (s.respondByte v).mask = s.mask := rfl
@[simp] theorem respondByte_faulted (v : Byte) : (s.respondByte v).faulted = s.faulted := rfl
@[simp] theorem respondByte_fcause (v : Byte) : (s.respondByte v).fcause = s.fcause := rfl
@[simp] theorem respondByte_fcmd (v : Byte) : (s.respondByte v).fcmd = s.fcmd := rfl
@[simp] theorem respondByte_blockMax (v : Byte) : (s.respondByte v).blockMax = s.blockMax := rfl
@[simp] theorem respondByte_resets (v : Byte) : (s.respondByte v).resets = s.resets := rfl
@[simp] theorem respondByte_host (v : Byte) : (s.respondByte v).host = s.host := rfl
@[simp] theorem respondByte_response (v : Byte) : (s.respondByte v).response = some (v.setWidth 64) := rfl

@[simp] theorem drop_ctxValid : s.drop.ctxValid = s.ctxValid := rfl
@[simp] theorem drop_k : s.drop.k = s.k := rfl
@[simp] theorem drop_p : s.drop.p = s.p := rfl
@[simp] theorem drop_gm : s.drop.gm = s.gm := rfl
@[simp] theorem drop_sh : s.drop.sh = s.sh := rfl
@[simp] theorem drop_mask : s.drop.mask = s.mask := rfl
@[simp] theorem drop_faulted : s.drop.faulted = s.faulted := rfl
@[simp] theorem drop_fcause : s.drop.fcause = s.fcause := rfl
@[simp] theorem drop_fcmd : s.drop.fcmd = s.fcmd := rfl
@[simp] theorem drop_blockMax : s.drop.blockMax = s.blockMax := rfl
@[simp] theorem drop_resets : s.drop.resets = s.resets := rfl
@[simp] theorem drop_host : s.drop.host = s.host := rfl
@[simp] theorem drop_response : s.drop.response = some allOnes := rfl

@[simp] theorem raiseFault_ctxValid (c : FaultCause) (cmd : Word) : (s.raiseFault c cmd).ctxValid = s.ctxValid := rfl
@[simp] theorem raiseFault_k (c : FaultCause) (cmd : Word) : (s.raiseFault c cmd).k = s.k := rfl
@[simp] theorem raiseFault_p (c : FaultCause) (cmd : Word) : (s.raiseFault c cmd).p = s.p := rfl
@[simp] theorem raiseFault_gm (c : FaultCause) (cmd : Word) : (s.raiseFault c cmd).gm = s.gm := rfl
@[simp] theorem raiseFault_sh (c : FaultCause) (cmd : Word) : (s.raiseFault c cmd).sh = s.sh := rfl
@[simp] theorem raiseFault_mask (c : FaultCause) (cmd : Word) : (s.raiseFault c cmd).mask = s.mask := rfl
@[simp] theorem raiseFault_faulted (c : FaultCause) (cmd : Word) : (s.raiseFault c cmd).faulted = true := rfl
@[simp] theorem raiseFault_fcause (c : FaultCause) (cmd : Word) : (s.raiseFault c cmd).fcause = c.code := rfl
@[simp] theorem raiseFault_fcmd (c : FaultCause) (cmd : Word) : (s.raiseFault c cmd).fcmd = cmd := rfl
@[simp] theorem raiseFault_blockMax (c : FaultCause) (cmd : Word) : (s.raiseFault c cmd).blockMax = s.blockMax := rfl
@[simp] theorem raiseFault_resets (c : FaultCause) (cmd : Word) : (s.raiseFault c cmd).resets = s.resets := rfl
@[simp] theorem raiseFault_host (c : FaultCause) (cmd : Word) : (s.raiseFault c cmd).host = s.host := rfl
@[simp] theorem raiseFault_response (c : FaultCause) (cmd : Word) : (s.raiseFault c cmd).response = some allOnes := rfl

@[simp] theorem setShByte_ctxValid (i j : Nat) (v : Byte) : (s.setShByte i j v).ctxValid = s.ctxValid := rfl
@[simp] theorem setShByte_k (i j : Nat) (v : Byte) : (s.setShByte i j v).k = s.k := rfl
@[simp] theorem setShByte_p (i j : Nat) (v : Byte) : (s.setShByte i j v).p = s.p := rfl
@[simp] theorem setShByte_gm (i j : Nat) (v : Byte) : (s.setShByte i j v).gm = s.gm := rfl
@[simp] theorem setShByte_sh (i j : Nat) (v : Byte) : (s.setShByte i j v).sh = s.sh.write (shardKey i j) v := rfl
@[simp] theorem setShByte_mask (i j : Nat) (v : Byte) : (s.setShByte i j v).mask = s.mask := rfl
@[simp] theorem setShByte_faulted (i j : Nat) (v : Byte) : (s.setShByte i j v).faulted = s.faulted := rfl
@[simp] theorem setShByte_fcause (i j : Nat) (v : Byte) : (s.setShByte i j v).fcause = s.fcause := rfl
@[simp] theorem setShByte_fcmd (i j : Nat) (v : Byte) : (s.setShByte i j v).fcmd = s.fcmd := rfl
@[simp] theorem setShByte_blockMax (i j : Nat) (v : Byte) : (s.setShByte i j v).blockMax = s.blockMax := rfl
@[simp] theorem setShByte_resets (i j : Nat) (v : Byte) : (s.setShByte i j v).resets = s.resets := rfl
@[simp] theorem setShByte_host (i j : Nat) (v : Byte) : (s.setShByte i j v).host = s.host := rfl
@[simp] theorem setShByte_response (i j : Nat) (v : Byte) : (s.setShByte i j v).response = s.response := rfl

@[simp] theorem setMaskByte_ctxValid (i : Nat) (v : Byte) : (s.setMaskByte i v).ctxValid = s.ctxValid := rfl
@[simp] theorem setMaskByte_k (i : Nat) (v : Byte) : (s.setMaskByte i v).k = s.k := rfl
@[simp] theorem setMaskByte_p (i : Nat) (v : Byte) : (s.setMaskByte i v).p = s.p := rfl
@[simp] theorem setMaskByte_gm (i : Nat) (v : Byte) : (s.setMaskByte i v).gm = s.gm := rfl
@[simp] theorem setMaskByte_sh (i : Nat) (v : Byte) : (s.setMaskByte i v).sh = s.sh := rfl
@[simp] theorem setMaskByte_mask (i : Nat) (v : Byte) : (s.setMaskByte i v).mask = s.mask.setIfInBounds i v := rfl
@[simp] theorem setMaskByte_faulted (i : Nat) (v : Byte) : (s.setMaskByte i v).faulted = s.faulted := rfl
@[simp] theorem setMaskByte_fcause (i : Nat) (v : Byte) : (s.setMaskByte i v).fcause = s.fcause := rfl
@[simp] theorem setMaskByte_fcmd (i : Nat) (v : Byte) : (s.setMaskByte i v).fcmd = s.fcmd := rfl
@[simp] theorem setMaskByte_blockMax (i : Nat) (v : Byte) : (s.setMaskByte i v).blockMax = s.blockMax := rfl
@[simp] theorem setMaskByte_resets (i : Nat) (v : Byte) : (s.setMaskByte i v).resets = s.resets := rfl
@[simp] theorem setMaskByte_host (i : Nat) (v : Byte) : (s.setMaskByte i v).host = s.host := rfl
@[simp] theorem setMaskByte_response (i : Nat) (v : Byte) : (s.setMaskByte i v).response = s.response := rfl

@[simp] theorem writeRows_ctxValid (rows : List Nat) (size : Nat) (e : Nat → Nat → Byte) : (s.writeRows rows size e).ctxValid = s.ctxValid := rfl
@[simp] theorem writeRows_k (rows : List Nat) (size : Nat) (e : Nat → Nat → Byte) : (s.writeRows rows size e).k = s.k := rfl
@[simp] theorem writeRows_p (rows : List Nat) (size : Nat) (e : Nat → Nat → Byte) : (s.writeRows rows size e).p = s.p := rfl
@[simp] theorem writeRows_gm (rows : List Nat) (size : Nat) (e : Nat → Nat → Byte) : (s.writeRows rows size e).gm = s.gm := rfl
theorem writeRows_sh (rows : List Nat) (size : Nat) (e : Nat → Nat → Byte) : (s.writeRows rows size e).sh = rows.foldl (fun m r => m.writeRow r size (e r)) s.sh := rfl
@[simp] theorem writeRows_mask (rows : List Nat) (size : Nat) (e : Nat → Nat → Byte) : (s.writeRows rows size e).mask = s.mask := rfl
@[simp] theorem writeRows_faulted (rows : List Nat) (size : Nat) (e : Nat → Nat → Byte) : (s.writeRows rows size e).faulted = s.faulted := rfl
@[simp] theorem writeRows_fcause (rows : List Nat) (size : Nat) (e : Nat → Nat → Byte) : (s.writeRows rows size e).fcause = s.fcause := rfl
@[simp] theorem writeRows_fcmd (rows : List Nat) (size : Nat) (e : Nat → Nat → Byte) : (s.writeRows rows size e).fcmd = s.fcmd := rfl
@[simp] theorem writeRows_blockMax (rows : List Nat) (size : Nat) (e : Nat → Nat → Byte) : (s.writeRows rows size e).blockMax = s.blockMax := rfl
@[simp] theorem writeRows_resets (rows : List Nat) (size : Nat) (e : Nat → Nat → Byte) : (s.writeRows rows size e).resets = s.resets := rfl
@[simp] theorem writeRows_host (rows : List Nat) (size : Nat) (e : Nat → Nat → Byte) : (s.writeRows rows size e).host = s.host := rfl
@[simp] theorem writeRows_response (rows : List Nat) (size : Nat) (e : Nat → Nat → Byte) : (s.writeRows rows size e).response = s.response := rfl

@[simp] theorem withHost_ctxValid (rest : List HostAction) : (s.withHost rest).ctxValid = s.ctxValid := rfl
@[simp] theorem withHost_k (rest : List HostAction) : (s.withHost rest).k = s.k := rfl
@[simp] theorem withHost_p (rest : List HostAction) : (s.withHost rest).p = s.p := rfl
@[simp] theorem withHost_gm (rest : List HostAction) : (s.withHost rest).gm = s.gm := rfl
@[simp] theorem withHost_sh (rest : List HostAction) : (s.withHost rest).sh = s.sh := rfl
@[simp] theorem withHost_mask (rest : List HostAction) : (s.withHost rest).mask = s.mask := rfl
@[simp] theorem withHost_faulted (rest : List HostAction) : (s.withHost rest).faulted = s.faulted := rfl
@[simp] theorem withHost_fcause (rest : List HostAction) : (s.withHost rest).fcause = s.fcause := rfl
@[simp] theorem withHost_fcmd (rest : List HostAction) : (s.withHost rest).fcmd = s.fcmd := rfl
@[simp] theorem withHost_blockMax (rest : List HostAction) : (s.withHost rest).blockMax = s.blockMax := rfl
@[simp] theorem withHost_resets (rest : List HostAction) : (s.withHost rest).resets = s.resets := rfl
@[simp] theorem withHost_host (rest : List HostAction) : (s.withHost rest).host = rest := rfl
@[simp] theorem withHost_response (rest : List HostAction) : (s.withHost rest).response = s.response := rfl

@[simp] theorem takeReset_ctxValid : s.takeReset.ctxValid = false := rfl
@[simp] theorem takeReset_k : s.takeReset.k = 0 := rfl
@[simp] theorem takeReset_p : s.takeReset.p = 0 := rfl
@[simp] theorem takeReset_gm : s.takeReset.gm = [] := rfl
@[simp] theorem takeReset_sh : s.takeReset.sh = [] := rfl
@[simp] theorem takeReset_mask : s.takeReset.mask = Vector.replicate 255 0 := rfl
@[simp] theorem takeReset_faulted : s.takeReset.faulted = false := rfl
@[simp] theorem takeReset_fcause : s.takeReset.fcause = 0 := rfl
@[simp] theorem takeReset_fcmd : s.takeReset.fcmd = 0 := rfl
@[simp] theorem takeReset_blockMax : s.takeReset.blockMax = s.blockMax := rfl
@[simp] theorem takeReset_resets : s.takeReset.resets = s.resets + 1 := rfl
@[simp] theorem takeReset_host : s.takeReset.host = s.host := rfl
@[simp] theorem takeReset_response : s.takeReset.response = none := rfl

@[simp] theorem resetWith_ctxValid (b : Word32) (r : Nat) : (State.resetWith b r).ctxValid = false := rfl
@[simp] theorem resetWith_k (b : Word32) (r : Nat) : (State.resetWith b r).k = 0 := rfl
@[simp] theorem resetWith_p (b : Word32) (r : Nat) : (State.resetWith b r).p = 0 := rfl
@[simp] theorem resetWith_gm (b : Word32) (r : Nat) : (State.resetWith b r).gm = [] := rfl
@[simp] theorem resetWith_sh (b : Word32) (r : Nat) : (State.resetWith b r).sh = [] := rfl
@[simp] theorem resetWith_mask (b : Word32) (r : Nat) : (State.resetWith b r).mask = Vector.replicate 255 0 := rfl
@[simp] theorem resetWith_faulted (b : Word32) (r : Nat) : (State.resetWith b r).faulted = false := rfl
@[simp] theorem resetWith_fcause (b : Word32) (r : Nat) : (State.resetWith b r).fcause = 0 := rfl
@[simp] theorem resetWith_fcmd (b : Word32) (r : Nat) : (State.resetWith b r).fcmd = 0 := rfl
@[simp] theorem resetWith_blockMax (b : Word32) (r : Nat) : (State.resetWith b r).blockMax = b := rfl
@[simp] theorem resetWith_resets (b : Word32) (r : Nat) : (State.resetWith b r).resets = r := rfl
@[simp] theorem resetWith_host (b : Word32) (r : Nat) : (State.resetWith b r).host = [] := rfl
@[simp] theorem resetWith_response (b : Word32) (r : Nat) : (State.resetWith b r).response = none := rfl

end Sys2Proof.Machine
end

