-- ==== Sys2Proof/Laws/Ops.lean ====
section
/-! SUPPORT. What each shared operation does, said once: the command wrapper, the operand checks, and the reads of SH and
MASK after each write. -/

namespace Sys2Proof.Machine

variable (s : State)

/-! ### The command wrapper -/

theorem run_running {s : State} (body : State → State) (h : s.faulted = false) : s.run body = .next (body s) := by
  simp [State.run, h]

theorem run_faulted {s : State} (body : State → State) (h : s.faulted = true) : s.run body = .next s.drop := by
  simp [State.run, h]

/-- The wrapper answers a next state whatever the body: the dropped command, or the body's. -/
theorem run_next {s t : State} {body : State → State} (h : s.run body = .next t) :
    (s.faulted = true ∧ t = s.drop) ∨ (s.faulted = false ∧ t = body s) := by
  cases hf : s.faulted with
  | true => exact .inl ⟨rfl, by simpa [run_faulted body hf] using h.symm⟩
  | false => exact .inr ⟨rfl, by simpa [run_running body hf] using h.symm⟩

theorem illegal_running {s : State} (cmd : Word) (h : s.faulted = false) :
    s.illegal cmd = s.raiseFault .illegalCmd cmd := by
  simp [State.illegal, h]

theorem illegal_faulted {s : State} (cmd : Word) (h : s.faulted = true) : s.illegal cmd = s.drop := by
  simp [State.illegal, h]

@[simp] theorem checked_error {α : Type} (cmd : Word) (c : FaultCause) (effect : α → State) :
    s.checked cmd (.error c) effect = s.raiseFault c cmd := rfl

@[simp] theorem checked_ok {α : Type} (cmd : Word) (x : α) (effect : α → State) :
    s.checked cmd (.ok x) effect = effect x := rfl

/-! ### The operand checks -/

theorem maskOperand_ok {i : Byte} (h : i.toNat < nMax) : maskOperand i = .ok i.toNat := by
  simp [maskOperand, h]

theorem maskOperand_badIndex {i : Byte} (h : ¬ i.toNat < nMax) : maskOperand i = .error .badIndex := by
  simp [maskOperand, h]

theorem shardOperand_ok {s : State} {i : Byte} {j : Word32} (hi : i.toNat < nMax) (hj : j.toNat < s.blockMax.toNat) :
    s.shardOperand i j = .ok (i.toNat, j.toNat) := by
  simp [State.shardOperand, hi, hj]

theorem shardOperand_badIndex {s : State} {i : Byte} (j : Word32) (hi : ¬ i.toNat < nMax) :
    s.shardOperand i j = .error .badIndex := by
  simp [State.shardOperand, hi]

theorem shardOperand_badBlock {s : State} {i : Byte} {j : Word32} (hi : i.toNat < nMax)
    (hj : ¬ j.toNat < s.blockMax.toNat) : s.shardOperand i j = .error .badBlock := by
  simp [State.shardOperand, hi, hj]

theorem groupOperand_ok {s : State} {cnt : Byte} {size : Word32} (hv : s.ctxValid = true) (hc : cnt.toNat = s.n)
    (hb : size.toNat ≤ s.blockMax.toNat) : s.groupOperand cnt size = .ok size.toNat := by
  simp [State.groupOperand, hv, hc, hb]

theorem groupOperand_noContext {s : State} (cnt : Byte) (size : Word32) (hv : s.ctxValid = false) :
    s.groupOperand cnt size = .error .noContext := by
  simp [State.groupOperand, hv]

theorem groupOperand_badCount {s : State} {cnt : Byte} (size : Word32) (hv : s.ctxValid = true) (hc : cnt.toNat ≠ s.n) :
    s.groupOperand cnt size = .error .badCount := by
  simp [State.groupOperand, hv, hc]

theorem groupOperand_badBlock {s : State} {cnt : Byte} {size : Word32} (hv : s.ctxValid = true) (hc : cnt.toNat = s.n)
    (hb : s.blockMax.toNat < size.toNat) : s.groupOperand cnt size = .error .badBlock := by
  simp [State.groupOperand, hv, hc, hb]

/-- Where the check of ENCODE and RECON passes: a context is held, the count is N, and the block fits. -/
theorem groupOperand_eq_ok {s : State} {cnt : Byte} {size : Word32} {b : Nat} (h : s.groupOperand cnt size = .ok b) :
    s.ctxValid = true ∧ cnt.toNat = s.n ∧ size.toNat ≤ s.blockMax.toNat ∧ b = size.toNat := by
  unfold State.groupOperand at h
  split at h
  · cases h
  · split at h
    · cases h
    · split at h
      · cases h
      · cases h
        simp_all

theorem shardOperand_eq_ok {s : State} {i : Byte} {j : Word32} {x : Nat × Nat} (h : s.shardOperand i j = .ok x) :
    i.toNat < nMax ∧ j.toNat < s.blockMax.toNat ∧ x = (i.toNat, j.toNat) := by
  unfold State.shardOperand at h
  split at h
  · cases h
  · split at h
    · cases h
    · cases h
      simp_all

theorem maskOperand_eq_ok {i : Byte} {x : Nat} (h : maskOperand i = .ok x) : i.toNat < nMax ∧ x = i.toNat := by
  unfold maskOperand at h
  split at h
  · cases h
    exact ⟨‹_›, rfl⟩
  · cases h

/-! ### Shard memory -/

/-- A shard byte depends on shard memory and on the free bytes of the latest reset only. -/
theorem shByte_congr {s t : State} (hs : t.sh = s.sh) (hr : t.resets = s.resets) (i j : Nat) :
    t.shByte i j = s.shByte i j := by
  simp [State.shByte, hs, hr]

@[simp] theorem shByte_respond (v : Word) (i j : Nat) : (s.respond v).shByte i j = s.shByte i j := rfl

@[simp] theorem shByte_respondByte (v : Byte) (i j : Nat) : (s.respondByte v).shByte i j = s.shByte i j := rfl

@[simp] theorem shByte_raiseFault (c : FaultCause) (cmd : Word) (i j : Nat) :
    (s.raiseFault c cmd).shByte i j = s.shByte i j := rfl

@[simp] theorem shByte_setMaskByte (r : Nat) (v : Byte) (i j : Nat) : (s.setMaskByte r v).shByte i j = s.shByte i j := rfl

@[simp] theorem shByte_withHost (rest : List HostAction) (i j : Nat) : (s.withHost rest).shByte i j = s.shByte i j := rfl

@[simp] theorem shByte_setShByte_same (i j : Nat) (v : Byte) : (s.setShByte i j v).shByte i j = v := by
  simp [State.shByte]

theorem shByte_setShByte_other {i j i' j' : Nat} (v : Byte) (hj : j < 2 ^ 32) (hj' : j' < 2 ^ 32)
    (h : ¬ (i' = i ∧ j' = j)) : (s.setShByte i j v).shByte i' j' = s.shByte i' j' := by
  have hne : shardKey i' j' ≠ shardKey i j := fun he => h ((shardKey_inj hj' hj).mp he)
  simp [State.shByte, Memory.read_write_other _ _ hne]

/-- Reading a place after rows were written: the written rows hold the new bytes below `size`, all else is as before. -/
theorem Memory.read_writeRows (rows : List Nat) {size : Nat} (e : Nat → Nat → Byte) (m : Memory) {i j : Nat}
    (hs : size ≤ 2 ^ 32) (hj : j < 2 ^ 32) :
    (rows.foldl (fun m r => m.writeRow r size (e r)) m).read (shardKey i j) =
      if i ∈ rows ∧ j < size then some (e i j) else m.read (shardKey i j) := by
  induction rows generalizing m with
  | nil => simp
  | cons r rows ih =>
    rw [List.foldl_cons, ih, Memory.read_writeRow]
    have hkey : (shardKey r 0 ≤ shardKey i j ∧ shardKey i j < shardKey r size) ↔ i = r ∧ j < size := by
      simp only [shardKey]
      omega
    simp only [hkey, List.mem_cons]
    by_cases hi : i ∈ rows ∧ j < size
    · simp [hi]
    · by_cases hr : i = r ∧ j < size
      · obtain ⟨rfl, hlt⟩ := hr
        simp [hlt, shardKey]
      · rw [if_neg hi, if_neg hr, if_neg (by tauto)]

theorem shByte_writeRows (rows : List Nat) {size : Nat} (e : Nat → Nat → Byte) {i j : Nat}
    (hs : size ≤ 2 ^ 32) (hj : j < 2 ^ 32) :
    (s.writeRows rows size e).shByte i j = if i ∈ rows ∧ j < size then e i j else s.shByte i j := by
  simp only [State.shByte, writeRows_sh, writeRows_resets, Memory.read_writeRows rows e s.sh hs hj]
  split <;> rfl

theorem Memory.writeRows_wf (rows : List Nat) (size : Nat) (e : Nat → Nat → Byte) {m : Memory} (h : Memory.wf m) :
    Memory.wf (rows.foldl (fun m r => m.writeRow r size (e r)) m) := by
  induction rows generalizing m with
  | nil => exact h
  | cons r rows ih => exact ih (Memory.writeRow_wf r size (e r) h)

theorem Memory.mem_writeRows {rows : List Nat} {size : Nat} {e : Nat → Nat → Byte} {m : Memory} {x : Host.Cell}
    (h : x ∈ rows.foldl (fun m r => m.writeRow r size (e r)) m) :
    (∃ i ∈ rows, ∃ j, j < size ∧ x.1 = shardKey i j) ∨ x ∈ m := by
  induction rows generalizing m with
  | nil => exact .inr h
  | cons r rows ih =>
    rcases ih h with ⟨i, hi, hx⟩ | h
    · exact .inl ⟨i, List.mem_cons_of_mem _ hi, hx⟩
    · exact (Memory.mem_writeRow h).imp_left fun hx => ⟨r, by simp, hx⟩

/-- Writing no row changes nothing, and so does writing no offset. -/
@[simp] theorem writeRows_nil (size : Nat) (e : Nat → Nat → Byte) : s.writeRows [] size e = s := rfl

@[simp] theorem writeRows_zero (rows : List Nat) (e : Nat → Nat → Byte) : s.writeRows rows 0 e = s := by
  have : rows.foldl (fun (m : Memory) r => m.writeRow r 0 (e r)) s.sh = s.sh := by
    induction rows with
    | nil => rfl
    | cons r rows ih => exact ih
  simp [State.writeRows, this]

/-! ### Mask memory -/

@[simp] theorem maskByte_respond (v : Word) (i : Nat) : (s.respond v).maskByte i = s.maskByte i := rfl

@[simp] theorem maskByte_withHost (rest : List HostAction) (i : Nat) : (s.withHost rest).maskByte i = s.maskByte i := rfl

@[simp] theorem maskByte_setShByte (r c : Nat) (v : Byte) (i : Nat) : (s.setShByte r c v).maskByte i = s.maskByte i := rfl

@[simp] theorem maskByte_writeRows (rows : List Nat) (size : Nat) (e : Nat → Nat → Byte) (i : Nat) :
    (s.writeRows rows size e).maskByte i = s.maskByte i := rfl

theorem maskByte_setMaskByte {i : Nat} (i' : Nat) (v : Byte) (h : i < nMax) :
    (s.setMaskByte i v).maskByte i' = if i' = i then v else s.maskByte i' := by
  simp only [State.maskByte, setMaskByte_mask, nMax] at *
  by_cases hi : i' = i
  · subst hi
    simp [h]
  · simp [hi, Ne.symm hi]

@[simp] theorem maskByte_resetWith (b : Word32) (r i : Nat) : (State.resetWith b r).maskByte i = 0 := by
  simp only [State.maskByte, resetWith_mask]
  by_cases h : i < 255 <;> simp [h]

end Sys2Proof.Machine
end

