-- ==== Sys2Proof/Laws/Exec.lean ====
section
/-! SUPPORT. One equation for each command in a running engine, and what a faulted engine does with all of them. -/

namespace Sys2Proof.Machine

variable {s : State}

theorem execGfmul_running (a b : Byte) (h : s.faulted = false) :
    exec (.gfmul a b) s = .next (s.respondByte (gfMul a b)) := by
  simp only [exec, execGfmul, run_running _ h]

theorem execGfdiv_running {a b q : Byte} (h : s.faulted = false) (hq : gfDiv a b = some q) :
    exec (.gfdiv a b) s = .next (s.respondByte q) := by
  simp [exec, execGfdiv, run_running _ h, hq]

theorem execGfdiv_undefined {a b : Byte} (h : s.faulted = false) (hq : gfDiv a b = none) :
    exec (.gfdiv a b) s = .next (s.raiseFault .gfDomain (encode (.gfdiv a b))) := by
  simp [exec, execGfdiv, run_running _ h, hq]

theorem execGfexp_running (e : Byte) (h : s.faulted = false) :
    exec (.gfexp e) s = .next (s.respondByte (alphaPow e.toNat)) := by
  simp only [exec, execGfexp, run_running _ h]

theorem execGflog_running {a l : Byte} (h : s.faulted = false) (hl : gfLog a = some l) :
    exec (.gflog a) s = .next (s.respondByte l) := by
  simp [exec, execGflog, run_running _ h, hl]

theorem execGflog_undefined {a : Byte} (h : s.faulted = false) (hl : gfLog a = none) :
    exec (.gflog a) s = .next (s.raiseFault .gfDomain (encode (.gflog a))) := by
  simp [exec, execGflog, run_running _ h, hl]

theorem execCtxnew_running (k p : Byte) (h : s.faulted = false) :
    exec (.ctxnew k p) s = .next (
      if k.toNat < 1 ∨ nMax < k.toNat + p.toNat then s.respond 1
      else { s with k := k, p := p, gm := generatingMatrix k.toNat p.toNat, ctxValid := true }.respond 0) := by
  simp only [exec, execCtxnew, run_running _ h]

theorem execCtxrel_running (h : s.faulted = false) :
    exec .ctxrel s = .next ({ s with ctxValid := false, k := 0, p := 0, gm := [] }.respond 0) := by
  simp only [exec, execCtxrel, run_running _ h]

/-- ENCODE in a running engine: the fault its checks find, or the parity rows. -/
theorem execEncode_running (cnt : Byte) (size : Word32) (h : s.faulted = false) :
    exec (.encode cnt size) s = .next (s.checked (encode (.encode cnt size)) (s.groupOperand cnt size) fun b =>
      (s.writeRows s.parityRows b s.parityByte).respond 0) := by
  simp only [exec, execEncode, run_running _ h]

/-- RECON in a running engine: the fault its checks find, or the reconstruction. -/
theorem execRecon_running (cnt : Byte) (size : Word32) (h : s.faulted = false) :
    exec (.recon cnt size) s = .next (s.checked (encode (.recon cnt size)) (s.groupOperand cnt size) fun b =>
      s.reconstruct (encode (.recon cnt size)) b) := by
  simp only [exec, execRecon, run_running _ h]

theorem execShwr_running (i : Byte) (j : Word32) (v : Byte) (h : s.faulted = false) :
    exec (.shwr i j v) s = .next (s.checked (encode (.shwr i j v)) (s.shardOperand i j) fun x =>
      (s.setShByte x.1 x.2 v).respond 0) := by
  simp only [exec, execShwr, run_running _ h]

theorem execShrd_running (i : Byte) (j : Word32) (h : s.faulted = false) :
    exec (.shrd i j) s = .next (s.checked (encode (.shrd i j)) (s.shardOperand i j) fun x =>
      s.respondByte (s.shByte x.1 x.2)) := by
  simp only [exec, execShrd, run_running _ h]

theorem execMkwr_running (i v : Byte) (h : s.faulted = false) :
    exec (.mkwr i v) s = .next (s.checked (encode (.mkwr i v)) (maskOperand i) fun x => (s.setMaskByte x v).respond 0) := by
  simp only [exec, execMkwr, run_running _ h]

theorem execMkrd_running (i : Byte) (h : s.faulted = false) :
    exec (.mkrd i) s = .next (s.checked (encode (.mkrd i)) (maskOperand i) fun x => s.respondByte (s.maskByte x)) := by
  simp only [exec, execMkrd, run_running _ h]

/-- RDCSR reads a register whether or not the engine is faulted (R107). -/
theorem execRdcsr_csr {n : Byte} {v : Word} (h : s.csr n.toNat = some v) : exec (.rdcsr n) s = .next (s.respond v) := by
  simp [exec, execRdcsr, h]

theorem execRdcsr_noCsr {n : Byte} (h : s.csr n.toNat = none) :
    exec (.rdcsr n) s = .next (s.illegal (encode (.rdcsr n))) := by
  simp [exec, execRdcsr, h]

theorem csr_isSome {n : Nat} (h : n < 4) : ∃ v, s.csr n = some v := by
  match n, h with
  | 0, _ | 1, _ | 2, _ | 3, _ => exact ⟨_, rfl⟩

theorem csr_none {n : Nat} (h : 4 ≤ n) : s.csr n = none := by
  match n, h with
  | m + 4, _ => rfl

/-- A faulted engine drops every command but a read of an existing register (R107). -/
theorem exec_faulted {i : Instr} (h : s.faulted = true) (hi : ∀ n, i = .rdcsr n → 4 ≤ n.toNat) :
    exec i s = .next s.drop := by
  cases i with
  | rdcsr n => rw [execRdcsr_noCsr (csr_none (hi n rfl)), illegal_faulted _ h]
  | gfmul a b => simp only [exec, execGfmul, run_faulted _ h]
  | gfdiv a b => simp only [exec, execGfdiv, run_faulted _ h]
  | gfexp e => simp only [exec, execGfexp, run_faulted _ h]
  | gflog a => simp only [exec, execGflog, run_faulted _ h]
  | ctxnew k p => simp only [exec, execCtxnew, run_faulted _ h]
  | ctxrel => simp only [exec, execCtxrel, run_faulted _ h]
  | encode cnt size => simp only [exec, execEncode, run_faulted _ h]
  | recon cnt size => simp only [exec, execRecon, run_faulted _ h]
  | shwr i j v => simp only [exec, execShwr, run_faulted _ h]
  | shrd i j => simp only [exec, execShrd, run_faulted _ h]
  | mkwr i v => simp only [exec, execMkwr, run_faulted _ h]
  | mkrd i => simp only [exec, execMkrd, run_faulted _ h]

/-- Every command answers a next state: the engine never stops. -/
theorem exec_next (i : Instr) (s : State) : ∃ t, exec i s = .next t := by
  cases i with
  | rdcsr n =>
    cases h : s.csr n.toNat with
    | some v => exact ⟨_, execRdcsr_csr h⟩
    | none => exact ⟨_, execRdcsr_noCsr h⟩
  | _ => exact ⟨_, rfl⟩

/-- What RECON does after its operand checks, said once. -/
theorem reconstruct_cases (s : State) (cmd : Word) (b : Nat) :
    (s.p.toNat < s.missing.length ∧ s.reconstruct cmd b = s.respond 1) ∨
    (s.missing.length ≤ s.p.toNat ∧ s.missing = [] ∧ s.reconstruct cmd b = s.respond 0) ∨
    (s.missing.length ≤ s.p.toNat ∧ s.missing ≠ [] ∧ inverse s.k.toNat s.subMatrix = none ∧
      s.reconstruct cmd b = s.raiseFault .internalSingular cmd) ∨
    (s.missing.length ≤ s.p.toNat ∧ s.missing ≠ [] ∧ ∃ inv, inverse s.k.toNat s.subMatrix = some inv ∧
      s.reconstruct cmd b =
        (s.writeRows s.missing b fun m => s.recoveredByte (s.coefficientRow inv m)).respond 0) := by
  by_cases hp : s.p.toNat < s.missing.length
  · exact .inl ⟨hp, by simp [State.reconstruct, hp]⟩
  · by_cases hm : s.missing = []
    · exact .inr (.inl ⟨by omega, hm, by simp [State.reconstruct, hm]⟩)
    · cases hi : inverse s.k.toNat s.subMatrix with
      | none => exact .inr (.inr (.inl ⟨by omega, hm, rfl, by simp [State.reconstruct, hp, hm, hi]⟩))
      | some inv => exact .inr (.inr (.inr ⟨by omega, hm, inv, rfl, by simp [State.reconstruct, hp, hm, hi]⟩))

end Sys2Proof.Machine
end

