-- ==== Sys2Proof/Laws/Gf.lean ====
section
/-! SUPPORT. The small facts about the tables and the field unit that proofs start from. -/

namespace Sys2Proof.Machine

/-- LOG has no entry at 0x00 and one everywhere else (R53). -/
theorem gfLog_eq_none_iff : ∀ a : Byte, gfLog a = none ↔ a = 0 := by
  decide +kernel

@[simp] theorem gfLog_zero : gfLog 0 = none := rfl

theorem gfLog_isSome {a : Byte} (h : a ≠ 0) : ∃ l, gfLog a = some l :=
  Option.ne_none_iff_exists'.mp fun hn => h ((gfLog_eq_none_iff a).mp hn)

@[simp] theorem gfMul_zero_left (b : Byte) : gfMul 0 b = 0 := rfl

@[simp] theorem gfMul_zero_right (a : Byte) : gfMul a 0 = 0 := by
  unfold gfMul
  simp only [gfLog_zero]
  cases gfLog a <;> rfl

/-- The product of two elements with logarithms (R57). -/
theorem gfMul_of_log {a b la lb : Byte} (ha : gfLog a = some la) (hb : gfLog b = some lb) :
    gfMul a b = alphaPow ((la.toNat + lb.toNat) % 255) := by
  simp [gfMul, ha, hb]

/-- The quotient of two elements with logarithms (R58). -/
theorem gfDiv_of_log {a b la lb : Byte} (ha : gfLog a = some la) (hb : gfLog b = some lb) :
    gfDiv a b = some (alphaPow ((la.toNat + 255 - lb.toNat) % 255)) := by
  simp [gfDiv, gfDivBy, ha, hb]

/-- The quotient is not defined for the divisor 0x00 (R58). -/
@[simp] theorem gfDiv_zero (a : Byte) : gfDiv a 0 = none := rfl

/-- Powers repeat with period 255 (R52). -/
theorem alphaPow_mod (e : Nat) : alphaPow (e % 255) = alphaPow e := by
  simp [alphaPow]

end Sys2Proof.Machine
end

