-- ==== Sys2Proof/Laws/Matrix.lean ====
section
/-! SUPPORT. Entries of a built matrix, and sums over GF(256) as accumulator loops. -/

namespace Sys2Proof.Machine

theorem entry_buildMatrix {rows cols r c : Nat} (e : Nat → Nat → Byte) (hr : r < rows) (hc : c < cols) :
    entry (buildMatrix rows cols e) r c = e r c := by
  simp [entry, buildMatrix, List.getD, hr, hc]

theorem entry_identityMatrix {n r c : Nat} (hr : r < n) (hc : c < n) :
    entry (identityMatrix n) r c = if r = c then 0x01 else 0x00 :=
  entry_buildMatrix _ hr hc

theorem entry_mulMatrix {rows inner cols r c : Nat} (a b : GfMatrix) (hr : r < rows) (hc : c < cols) :
    entry (mulMatrix rows inner cols a b) r c = xorSum inner fun t => gfMul (entry a r t) (entry b t c) :=
  entry_buildMatrix _ hr hc

theorem entry_vandermonde {rows cols r c : Nat} (hr : r < rows) (hc : c < cols) :
    entry (vandermonde rows cols) r c = alphaPow (r * c) :=
  entry_buildMatrix _ hr hc

/-- Entry r, c of the generating matrix is the sum of R68. -/
theorem entry_generatingMatrix {k p r c : Nat} (hr : r < k + p) (hc : c < k) :
    entry (generatingMatrix k p) r c =
      xorSum k fun t => gfMul (alphaPow (r * t)) (entry (vandermondeTopInverse k) t c) := by
  rw [generatingMatrix, entry_mulMatrix _ _ hr hc]
  have : ∀ n, n ≤ k → (xorSum n fun t => gfMul (entry (vandermonde (k + p) k) r t) (entry (vandermondeTopInverse k) t c)) =
      xorSum n fun t => gfMul (alphaPow (r * t)) (entry (vandermondeTopInverse k) t c) := by
    intro n
    induction n with
    | zero => intro _; rfl
    | succ n ih =>
      intro hn
      simp only [xorSum, ih (by omega), entry_vandermonde hr (show n < k by omega)]
  exact this k (Nat.le_refl k)

@[simp] theorem xorSum_zero_terms (e : Nat → Byte) : xorSum 0 e = 0 := rfl

theorem xorSum_succ (n : Nat) (e : Nat → Byte) : xorSum (n + 1) e = xorSum n e ^^^ e n := rfl

theorem xorSum_congr {n : Nat} {e f : Nat → Byte} (h : ∀ i, i < n → e i = f i) : xorSum n e = xorSum n f := by
  induction n with
  | zero => rfl
  | succ n ih => rw [xorSum, xorSum, ih fun i hi => h i (by omega), h n (by omega)]

@[simp] theorem xorSum_const_zero (n : Nat) : (xorSum n fun _ => 0) = 0 := by
  induction n with
  | zero => rfl
  | succ n ih => simp only [xorSum, ih, BitVec.xor_self]; rfl

theorem xorSum_xor (n : Nat) (e f : Nat → Byte) : (xorSum n fun i => e i ^^^ f i) = xorSum n e ^^^ xorSum n f := by
  induction n with
  | zero => simp
  | succ n ih =>
    simp only [xorSum, ih]
    ac_rfl

end Sys2Proof.Machine
end

