-- ==== Sys2Proof/Laws/PerInstr.lean ====
section
/-! SUPPORT. A family of facts proved for each command: where the encoder puts the opcode and the operands. -/

namespace Sys2Proof

@[simp] theorem opField_packFields (op fa fb rsv : Byte) (w : Word32) : opField (packFields op fa fb rsv w) = op := by
  apply BitVec.eq_of_getLsbD_eq
  intro i hi
  simp only [opField, packFields, BitVec.getLsbD_extractLsb', BitVec.getLsbD_append, hi, decide_true, Bool.true_and]
  rw [if_neg (by omega), if_neg (by omega), if_neg (by omega), if_neg (by omega)]
  congr 1
  omega

@[simp] theorem faField_packFields (op fa fb rsv : Byte) (w : Word32) : faField (packFields op fa fb rsv w) = fa := by
  apply BitVec.eq_of_getLsbD_eq
  intro i hi
  simp only [faField, packFields, BitVec.getLsbD_extractLsb', BitVec.getLsbD_append, hi, decide_true, Bool.true_and]
  rw [if_neg (by omega), if_neg (by omega), if_neg (by omega), if_pos (by omega)]
  congr 1
  omega

@[simp] theorem fbField_packFields (op fa fb rsv : Byte) (w : Word32) : fbField (packFields op fa fb rsv w) = fb := by
  apply BitVec.eq_of_getLsbD_eq
  intro i hi
  simp only [fbField, packFields, BitVec.getLsbD_extractLsb', BitVec.getLsbD_append, hi, decide_true, Bool.true_and]
  rw [if_neg (by omega), if_neg (by omega), if_pos (by omega)]
  congr 1
  omega

@[simp] theorem rsvField_packFields (op fa fb rsv : Byte) (w : Word32) : rsvField (packFields op fa fb rsv w) = rsv := by
  apply BitVec.eq_of_getLsbD_eq
  intro i hi
  simp only [rsvField, packFields, BitVec.getLsbD_extractLsb', BitVec.getLsbD_append, hi, decide_true, Bool.true_and]
  rw [if_neg (by omega), if_pos (by omega)]
  congr 1
  omega

@[simp] theorem wField_packFields (op fa fb rsv : Byte) (w : Word32) : wField (packFields op fa fb rsv w) = w := by
  apply BitVec.eq_of_getLsbD_eq
  intro i hi
  simp only [wField, packFields, BitVec.getLsbD_extractLsb', BitVec.getLsbD_append, hi, decide_true, Bool.true_and]
  rw [if_pos (by omega)]
  congr 1
  omega

/-- A word is its five fields. -/
theorem packFields_fields (cmd : Word) :
    packFields (opField cmd) (faField cmd) (fbField cmd) (rsvField cmd) (wField cmd) = cmd := by
  apply BitVec.eq_of_getLsbD_eq
  intro i hi
  simp only [packFields, opField, faField, fbField, rsvField, wField, BitVec.getLsbD_append,
    BitVec.getLsbD_extractLsb']
  split
  · simp [show i < 32 by omega]
  · split
    · simp [show i - 32 < 8 by omega, show 32 + (i - 32) = i by omega]
    · split
      · simp [show i - 32 - 8 < 8 by omega, show 40 + (i - 32 - 8) = i by omega]
      · split
        · simp [show i - 32 - 8 - 8 < 8 by omega, show 48 + (i - 32 - 8 - 8) = i by omega]
        · simp [show i - 32 - 8 - 8 - 8 < 8 by omega, show 56 + (i - 32 - 8 - 8 - 8) = i by omega]

namespace Laws.EncodedFields

/-- The encoded word holds the opcode of its row, zero in the reserved field, and every operand of the command in the field
R43 names, from which the row's command is read back (R41, R43, R44). -/
def Statement (i : Instr) : Prop :=
  opField (encode i) = i.opcode.code ∧ rsvField (encode i) = 0 ∧
  i.opcode.format.unusedZero (faField (encode i)) (fbField (encode i)) (wField (encode i)) = true ∧
  i.opcode.command (faField (encode i)) (fbField (encode i)) (wField (encode i)) = i

theorem gfmul (a b : Byte) : Statement (.gfmul a b) := by
  simp [Statement, Sys2Proof.encode, Instr.opcode, Opcode.code, Opcode.format, Format.unusedZero, Opcode.command]

theorem gfdiv (a b : Byte) : Statement (.gfdiv a b) := by
  simp [Statement, Sys2Proof.encode, Instr.opcode, Opcode.code, Opcode.format, Format.unusedZero, Opcode.command]

theorem gfexp (e : Byte) : Statement (.gfexp e) := by
  simp [Statement, Sys2Proof.encode, Instr.opcode, Opcode.code, Opcode.format, Format.unusedZero, Opcode.command]

theorem gflog (a : Byte) : Statement (.gflog a) := by
  simp [Statement, Sys2Proof.encode, Instr.opcode, Opcode.code, Opcode.format, Format.unusedZero, Opcode.command]

theorem ctxnew (k p : Byte) : Statement (.ctxnew k p) := by
  simp [Statement, Sys2Proof.encode, Instr.opcode, Opcode.code, Opcode.format, Format.unusedZero, Opcode.command]

theorem ctxrel : Statement .ctxrel := by
  simp [Statement, Sys2Proof.encode, Instr.opcode, Opcode.code, Opcode.format, Format.unusedZero, Opcode.command]

theorem encode (cnt : Byte) (blockSize : Word32) : Statement (.encode cnt blockSize) := by
  simp [Statement, Sys2Proof.encode, Instr.opcode, Opcode.code, Opcode.format, Format.unusedZero, Opcode.command]

theorem recon (cnt : Byte) (blockSize : Word32) : Statement (.recon cnt blockSize) := by
  simp [Statement, Sys2Proof.encode, Instr.opcode, Opcode.code, Opcode.format, Format.unusedZero, Opcode.command]

theorem shwr (shard : Byte) (offset : Word32) (v : Byte) : Statement (.shwr shard offset v) := by
  simp [Statement, Sys2Proof.encode, Instr.opcode, Opcode.code, Opcode.format, Format.unusedZero, Opcode.command]

theorem shrd (shard : Byte) (offset : Word32) : Statement (.shrd shard offset) := by
  simp [Statement, Sys2Proof.encode, Instr.opcode, Opcode.code, Opcode.format, Format.unusedZero, Opcode.command]

theorem mkwr (shard v : Byte) : Statement (.mkwr shard v) := by
  simp [Statement, Sys2Proof.encode, Instr.opcode, Opcode.code, Opcode.format, Format.unusedZero, Opcode.command]

theorem mkrd (shard : Byte) : Statement (.mkrd shard) := by
  simp [Statement, Sys2Proof.encode, Instr.opcode, Opcode.code, Opcode.format, Format.unusedZero, Opcode.command]

theorem rdcsr (n : Byte) : Statement (.rdcsr n) := by
  simp [Statement, Sys2Proof.encode, Instr.opcode, Opcode.code, Opcode.format, Format.unusedZero, Opcode.command]

end Laws.EncodedFields

end Sys2Proof
end

