-- ==== Sys2Proof/Laws/Step.lean ====
section
/-! SUPPORT. What a step can do, said once. -/

namespace Sys2Proof.Machine

variable {s t : State}

theorem step_idle (h : s.host = []) : step s = .next s := by
  simp [step, h]

theorem step_reset {rest : List HostAction} (h : s.host = .reset :: rest) :
    step s = .next (s.withHost rest).takeReset := by
  simp [step, h]

theorem step_command {cmd : Word} {rest : List HostAction} {i : Instr} (h : s.host = .command cmd :: rest)
    (hd : decode cmd = .ok i) : step s = exec i (s.withHost rest) := by
  simp [step, h, hd]

theorem step_illegal {cmd : Word} {rest : List HostAction} {e : IllegalWord} (h : s.host = .command cmd :: rest)
    (hd : decode cmd = .error e) : step s = .next ((s.withHost rest).illegal cmd) := by
  simp [step, h, hd]

/-- The four things a step can be: idle, a reset, a decoded command, an illegal word. -/
theorem step_cases (h : step s = .next t) :
    (s.host = [] ∧ t = s) ∨
    (∃ rest, s.host = .reset :: rest ∧ t = (s.withHost rest).takeReset) ∨
    (∃ cmd rest i, s.host = .command cmd :: rest ∧ decode cmd = .ok i ∧ exec i (s.withHost rest) = .next t) ∨
    (∃ cmd rest e, s.host = .command cmd :: rest ∧ decode cmd = .error e ∧ t = (s.withHost rest).illegal cmd) := by
  cases hh : s.host with
  | nil => exact .inl ⟨rfl, by simpa [step_idle hh] using h.symm⟩
  | cons x rest =>
    cases x with
    | reset => exact .inr (.inl ⟨rest, rfl, by simpa [step_reset hh] using h.symm⟩)
    | command cmd =>
      cases hd : decode cmd with
      | ok i => exact .inr (.inr (.inl ⟨cmd, rest, i, rfl, hd, by rw [← step_command hh hd, h]⟩))
      | error e => exact .inr (.inr (.inr ⟨cmd, rest, e, rfl, hd, by simpa [step_illegal hh hd] using h.symm⟩))

end Sys2Proof.Machine
end

