-- ==== Sys2Proof/Tests/Slice0.lean ====
section
/-! SUPPORT. Tests whose expected results are the spec's own words, tables and vectors (rule or vector named at each), and a
witness for the hypotheses of each statement. -/

namespace Sys2Proof.Machine

/-! ### Decoding: a word of each command, from the rule of the command -/

theorem test_decode_gfmul : decode 0x0153CA0000000000 = .ok (.gfmul 0x53 0xCA) := by decide  -- R63
theorem test_decode_gfdiv : decode 0x028FCA0000000000 = .ok (.gfdiv 0x8F 0xCA) := by decide  -- R64
theorem test_decode_gfexp : decode 0x0308000000000000 = .ok (.gfexp 8) := by decide  -- R55
theorem test_decode_gflog : decode 0x041D000000000000 = .ok (.gflog 0x1D) := by decide  -- R56
theorem test_decode_ctxnew : decode 0x1003020000000000 = .ok (.ctxnew 3 2) := by decide  -- R74
theorem test_decode_ctxrel : decode 0x1100000000000000 = .ok .ctxrel := by decide  -- R75
theorem test_decode_encode : decode 0x2003000000000011 = .ok (.encode 3 17) := by decide  -- V7.10
theorem test_decode_recon : decode 0x2106000000000002 = .ok (.recon 6 2) := by decide  -- V5.7
theorem test_decode_shwr : decode 0x30FEEE000000000F = .ok (.shwr 254 15 0xEE) := by decide  -- V6.3
theorem test_decode_shrd : decode 0x31FE00000000000F = .ok (.shrd 254 15) := by decide  -- V6.4
theorem test_decode_mkwr : decode 0x3203FF0000000000 = .ok (.mkwr 3 0xFF) := by decide  -- V6.7
theorem test_decode_mkrd : decode 0x3304000000000000 = .ok (.mkrd 4) := by decide  -- V6.9
theorem test_decode_rdcsr : decode 0x4003000000000000 = .ok (.rdcsr 3) := by decide  -- V6.15

/-! ### Illegal words, one for each ground of R45, and the well-formedness check -/

theorem test_illegal_opcode : decode 0xFF00000000000000 = .error .unknownOpcode := by decide  -- V7.17
theorem test_illegal_reserved : decode 0x1100000100000000 = .error .reservedNotZero := by decide  -- V7.5
theorem test_illegal_unused : decode 0x0101020000000001 = .error .unusedFieldNotZero := by decide  -- V7.4
theorem test_illegal_csr : decode 0x4004000000000000 = .error .noSuchCsr := by decide  -- V7.9

/-- The smoke test of WellFormed: register 4 does not exist (R24). -/
theorem test_wellFormed_refuses_csr4 : (Instr.rdcsr 4).wellFormed = false := by decide

theorem test_decodeTableWord : decodeTableWord 64 0x4002000000000000 = some (.rdcsr 2) := by decide  -- V6.14

/-! ### Small states -/

/-- The engine holding context (2, 1), whose matrix R72 writes out. -/
def ctx21 : State := { State.reset with ctxValid := true, k := 2, p := 1, gm := [[0x01, 0x00], [0x00, 0x01], [0x02, 0x03]] }

/-- Frame F21: SH[0] = AA, SH[1] = 55, one byte each (95_test_vectors.md section 5). -/
def frame21 : State := (ctx21.setShByte 0 0 0xAA).setShByte 1 0 0x55

/-- Frame F21 encoded, row 0 lost and marked: V5.6. -/
def lost21 : State := (((frame21.setShByte 2 0 0xB6).setShByte 0 0 0x00).setMaskByte 0 0x01)

/-- An engine that has faulted on `GFDIV 5, 0`: V7.1. -/
def faulted : State := { State.reset with faulted := true, fcause := 0x02, fcmd := 0x0205000000000000 }

/-- `s` with the word `cmd` issued next. -/
def State.issued (s : State) (cmd : Word) : State := { s with host := [.command cmd] }

/-- One field of the state after a step, if there is a next state. -/
def after {α : Type} (r : Result) (f : State → α) : Option α :=
  match r with
  | .next t => some (f t)
  | _ => none

/-- The response to the word `cmd`. -/
def responseTo (s : State) (cmd : Word) : Option (Option Word) := after (step (s.issued cmd)) State.response

/-! ### One step of each command -/

theorem test_gfmul_polynomial : responseTo .reset 0x0157830000000000 = some (some 0x31) := by decide  -- V3.13
theorem test_gfmul_largest : responseTo .reset 0x01FFFF0000000000 = some (some 0xE2) := by decide  -- V3.8
theorem test_gfdiv : responseTo .reset 0x0253CA0000000000 = some (some 0x6D) := by decide  -- V3.25
theorem test_gfdiv_by_zero : after (step (State.reset.issued 0x0205000000000000)) (fun t => (t.response, t.fcause, t.fcmd)) =
    some (some 0xFFFFFFFFFFFFFFFF, 0x02, 0x0205000000000000) := by decide  -- V7.1
theorem test_gfexp_reduced : responseTo .reset 0x03FF000000000000 = some (some 0x01) := by decide  -- V2.6
theorem test_gfexp_last : responseTo .reset 0x03FE000000000000 = some (some 0x8E) := by decide  -- V2.5
theorem test_gflog : responseTo .reset 0x04FF000000000000 = some (some 0xAF) := by decide  -- V2.11
theorem test_gflog_of_zero : after (step (State.reset.issued 0x0400000000000000)) State.fcause = some 0x02 := by decide  -- V7.2
theorem test_ctxnew_matrix : after (step (State.reset.issued 0x1002010000000000)) State.gm =
    some [[0x01, 0x00], [0x00, 0x01], [0x02, 0x03]] := by decide +kernel  -- V4.1, R72
theorem test_ctxnew_128_128 : after (step (ctx21.issued 0x1080800000000000)) (fun t => (t.response, t.k, t.p)) =
    some (some 1, 2, 1) := by decide  -- V4.13, and V4.7: the old context stays
theorem test_ctxrel : after (step (ctx21.issued 0x1100000000000000)) (fun t => (t.response, t.status)) =
    some (some 0, 0) := by decide  -- V4.9
theorem test_encode : after (step (frame21.issued 0x2003000000000001)) (fun t => (t.response, t.shByte 2 0)) =
    some (some 0, 0xB6) := by decide +kernel  -- frame F21
theorem test_encode_fault_order : after (step (ctx21.issued 0x2004000000000011)) (fun t => (t.fcause, t.status)) =
    some (0x04, 0x010203) := by decide  -- V7.12
theorem test_recon : after (step (lost21.issued 0x2103000000000001)) (fun t => (t.response, t.shByte 0 0)) =
    some (some 0, 0xAA) := by decide +kernel  -- V5.6
theorem test_recon_too_many : after (step ((lost21.setMaskByte 1 0x01).issued 0x2103000000000001))
    (fun t => (t.response, t.shByte 0 0)) = some (some 1, 0x00) := by decide +kernel  -- V5.10
theorem test_shwr_offset : after (step (State.reset.issued 0x3000010000000010)) State.fcause = some 0x05 := by decide  -- V7.7
theorem test_shwr_last : after (step (State.reset.issued 0x30FEEE000000000F)) (fun t => t.shByte 254 15) = some 0xEE := by
  decide  -- V6.3
theorem test_shrd : responseTo frame21 0x3101000000000000 = some (some 0x55) := by decide  -- R98
theorem test_shrd_index_first : after (step (State.reset.issued 0x31FF000000000010)) State.fcause = some 0x06 := by
  decide  -- V7.16
theorem test_mkwr : after (step (State.reset.issued 0x3203FF0000000000)) (fun t => t.maskByte 3) = some 0xFF := by
  decide +kernel  -- V6.7
theorem test_mkwr_index : after (step (State.reset.issued 0x32FF010000000000)) State.fcause = some 0x06 := by decide  -- V7.8
theorem test_mkrd : responseTo lost21 0x3300000000000000 = some (some 0x01) := by decide +kernel  -- program P3, MKRD 0
theorem test_rdcsr_status : responseTo ctx21 0x4000000000000000 = some (some 0x010201) := by decide  -- R101
theorem test_rdcsr_faulted : responseTo faulted 0x4002000000000000 = some (some 0x0205000000000000) := by decide  -- section 7

/-! ### Faulted engine and reset -/

theorem test_faulted_drops : responseTo faulted 0x0101010000000000 = some (some 0xFFFFFFFFFFFFFFFF) := by
  decide  -- section 7: GFMUL 1, 1 after V7.1
theorem test_faulted_keeps_cause : after (step (faulted.issued 0x0400000000000000)) (fun t => (t.fcause, t.fcmd)) =
    some (0x02, 0x0205000000000000) := by decide  -- section 7: a second faulting command
theorem test_reset_clears : after (step { faulted with host := [.reset] }) (fun t => (t.faulted, t.status)) =
    some (false, 0) := by decide  -- R114

/-! ### Tables, matrices and inversion against the worked examples -/

theorem test_vandermonde_3_2 : vandermonde 5 3 = [[0x01, 0x01, 0x01], [0x01, 0x02, 0x04], [0x01, 0x04, 0x10],
    [0x01, 0x08, 0x40], [0x01, 0x10, 0x1D]] := by decide  -- R72
theorem test_vandermondeTopInverse_3 : vandermondeTopInverse 3 =
    [[0xC4, 0x53, 0x96], [0x53, 0x8E, 0xDD], [0x96, 0xDD, 0x4B]] := by decide +kernel  -- R72
theorem test_generatingMatrix_4_2 : (generatingMatrix 4 2).drop 4 =
    [[0x40, 0x78, 0x36, 0x0F], [0xE7, 0xD2, 0x57, 0x63]] := by decide +kernel  -- R72
theorem test_inverse_with_swaps : inverse 3 [[0x00, 0x01, 0x00], [0x00, 0x00, 0x01], [0x38, 0x22, 0x1B]] =
    some [[0x72, 0x23, 0x50], [0x01, 0x00, 0x00], [0x00, 0x01, 0x00]] := by decide +kernel  -- R95
theorem test_inverse_of_singular : inverse 2 [[0x02, 0x03], [0x02, 0x03]] = none := by decide +kernel  -- R86
theorem test_exp_recurrence : ∀ i : Fin 255, alphaPow (i + 1) = xtime (alphaPow i) := by decide +kernel  -- R52
theorem test_log_inverts_exp : ∀ i : Fin 255, gfLog (alphaPow i) = some (BitVec.ofNat 8 i) := by decide +kernel  -- R53
theorem test_clmul : clmul 0x57 0x83 = 0x31 := by decide  -- R59, V3.13

/-! ### Witnesses: for each statement with hypotheses, a state and operands that meet them -/

theorem next_of_after {r : Result} {t : State} (h : after r id = some t) : r = .next t := by
  cases r with
  | next u => simpa [after] using h
  | fault f => cases f
  | refused f => simp [after] at h

theorem ctx21_matrix : ctx21.gm = generatingMatrix 2 1 := by decide +kernel

/-- An engine that differs from `ctx21` in shard memory and mask only meets the invariant if its shard memory does. -/
theorem inv_of_context21 {s : State} (hc : s.ctxValid = true ∧ s.k = 2 ∧ s.p = 1 ∧ s.gm = ctx21.gm)
    (hf : s.faulted = false ∧ s.fcause = 0 ∧ s.fcmd = 0) (hb : s.blockMax = 16) (hs : s.ShardInv) : s.Inv where
  blockMax_pos := by simp [hb]
  context := by
    obtain ⟨h₁, h₂, h₃, h₄⟩ := hc
    refine ⟨fun _ => ⟨by simp [h₂], by simp [State.n, nMax, h₂, h₃], ?_⟩, by simp [h₁]⟩
    rw [h₂, h₃, h₄, ctx21_matrix]
    rfl
  faults := ⟨fun _ => hf.2, by simp [hf.1]⟩
  shards := hs

theorem ctx21_inv : ctx21.Inv :=
  inv_of_context21 (by decide) (by decide) rfl ⟨by decide, fun _ h => nomatch h⟩

theorem frame21_inv : frame21.Inv := by
  refine inv_of_context21 (by decide) (by decide) rfl ⟨by decide, fun x h => ?_⟩
  have h : x ∈ [((0 : Nat), (0xAA : Byte)), (4294967296, 0x55)] := h
  rcases List.mem_cons.mp h with rfl | h
  · exact ⟨0, 0, by decide, by decide, rfl⟩
  · obtain rfl : x = (4294967296, 0x55) := by simpa using h
    exact ⟨1, 0, by decide, by decide, rfl⟩

theorem lost21_inv : lost21.Inv := by
  refine inv_of_context21 (by decide) (by decide) rfl ⟨by decide, fun x h => ?_⟩
  have h : x ∈ [((0 : Nat), (0x00 : Byte)), (4294967296, 0x55), (8589934592, 0xB6)] := h
  rcases List.mem_cons.mp h with rfl | h
  · exact ⟨0, 0, by decide, by decide, rfl⟩
  · rcases List.mem_cons.mp h with rfl | h
    · exact ⟨1, 0, by decide, by decide, rfl⟩
    · obtain rfl : x = (8589934592, 0xB6) := by simpa using h
      exact ⟨2, 0, by decide, by decide, rfl⟩

/-- Frame F21 after `ENCODE 3, 1`: SH[2] = B6. -/
def encoded21 : State := (frame21.setShByte 2 0 0xB6).respond 0

theorem frame21_encode : exec (.encode 3 1) frame21 = .next encoded21 := next_of_after (by decide +kernel)

/-- Frame F21 after the RECON of V5.6. -/
def recovered21 : State := (lost21.setShByte 0 0 0xAA).respond 0

theorem lost21_recon : exec (.recon 3 1) lost21 = .next recovered21 := next_of_after (by decide +kernel)

theorem witness_DecodeInvertsEncode : (Instr.rdcsr 3).wellFormed = true ∧ (Instr.shwr 255 0xFFFFFFFF 255).wellFormed = true := by
  decide

theorem witness_EncodeInvertsDecode : decode 0x30FFFF00FFFFFFFF = .ok (.shwr 255 0xFFFFFFFF 255) := by decide

theorem witness_CommandIsMaskAndMatch : (0x4003000000000000 : Word) &&& Opcode.rdcsr.maskWord = Opcode.rdcsr.matchWord ∧
    decode 0x4003000000000000 = .ok (.rdcsr 3) := by decide

theorem witness_IllegalWordRaisesIllegalCmd : (State.reset.issued 0x4004000000000000).faulted = false ∧
    (State.reset.issued 0x4004000000000000).host = [.command 0x4004000000000000] ∧
    decode 0x4004000000000000 = .error .noSuchCsr := by decide

theorem witness_StepRunsDecodedCommand : (ctx21.issued 0x2003000000000001).host = [.command 0x2003000000000001] ∧
    decode 0x2003000000000001 = .ok (.encode 3 1) := by decide

theorem witness_IdleEngineHoldsState : ctx21.host = [] := rfl

theorem witness_ResetGivesEveryResetValue : ({ faulted with host := [.reset] } : State).host = [.reset] := rfl

theorem witness_ResetStateMeetsInvariant : 1 ≤ (1 : Word32).toNat ∧ 1 ≤ (0xFFFFFFFF : Word32).toNat := by decide

theorem witness_StepKeepsInvariant : ctx21.Inv ∧ ∃ t, step ctx21 = .next t := ⟨ctx21_inv, _, rfl⟩

theorem witness_BlockMaxNeverChanges : ∃ t, step (ctx21.issued 0x1100000000000000) = .next t := ⟨_, rfl⟩

/-- Both cases: a word that decodes to RDCSR 3, and the largest word that does not decode. -/
theorem witness_FaultedEngineDropsAllButRdcsr : faulted.faulted = true ∧
    (faulted.issued 0x4003000000000000).host = [.command 0x4003000000000000] ∧
    decode 0x4003000000000000 = .ok (.rdcsr 3) ∧
    (faulted.issued 0xFFFFFFFFFFFFFFFF).host = [.command 0xFFFFFFFFFFFFFFFF] ∧
    ∀ n, decode 0xFFFFFFFFFFFFFFFF ≠ .ok (.rdcsr n) :=
  ⟨rfl, rfl, by decide, rfl, fun _ h => nomatch h⟩

theorem witness_OnlyResetClearsFaulted : faulted.faulted = true ∧ ∃ t, step faulted = .next t := ⟨rfl, _, rfl⟩

theorem witness_FaultEntryChangesFaultRegistersOnly : ∃ s t : State, s.faulted = false ∧ step s = .next t ∧ t.faulted = true :=
  ⟨State.reset.issued 0x0205000000000000, _, rfl, rfl, by decide⟩

/-- BLOCK_MAX is 16 in `ctx21`: offset 16 and block size 17 are the first outside. -/
theorem witness_AccessOutsideSpaceFaults : ctx21.faulted = false ∧ (254 : Byte) ≠ 255 ∧
    ctx21.blockMax.toNat ≤ (16 : Word32).toNat ∧ ctx21.ctxValid = true ∧ (3 : Byte).toNat = ctx21.n ∧
    ctx21.blockMax.toNat < (17 : Word32).toNat := by decide

theorem witness_CodingCommandsFaultInOrder : State.reset.faulted = false ∧ State.reset.ctxValid = false ∧
    ctx21.faulted = false ∧ ctx21.ctxValid = true ∧ (2 : Byte).toNat ≠ ctx21.n ∧ (4 : Byte).toNat ≠ ctx21.n ∧
    (3 : Byte).toNat = ctx21.n ∧ ctx21.blockMax.toNat < (17 : Word32).toNat := by decide

/-- The must-be-zero clauses: for each opcode a running engine, a word with that opcode, and a field set that must be 0. -/
theorem witness_IllegalWhen : State.reset.faulted = false ∧
    (opField 0x01FFFF0000000001 = Opcode.gfmul.code ∧ wField 0x01FFFF0000000001 ≠ 0) ∧
    (opField 0x02FFFF8000000000 = Opcode.gfdiv.code ∧ rsvField 0x02FFFF8000000000 ≠ 0) ∧
    (opField 0x03FF010000000000 = Opcode.gfexp.code ∧ fbField 0x03FF010000000000 ≠ 0) ∧
    (opField 0x0400000080000000 = Opcode.gflog.code ∧ wField 0x0400000080000000 ≠ 0) ∧
    (opField 0x1000000100000000 = Opcode.ctxnew.code ∧ rsvField 0x1000000100000000 ≠ 0) ∧
    (opField 0x1101000000000000 = Opcode.ctxrel.code ∧ faField 0x1101000000000000 ≠ 0) ∧
    (opField 0x2000800000000000 = Opcode.encode.code ∧ fbField 0x2000800000000000 ≠ 0) ∧
    (opField 0x2100000100000000 = Opcode.recon.code ∧ rsvField 0x2100000100000000 ≠ 0) ∧
    (opField 0x3000000100000000 = Opcode.shwr.code ∧ rsvField 0x3000000100000000 ≠ 0) ∧
    (opField 0x3100010000000000 = Opcode.shrd.code ∧ fbField 0x3100010000000000 ≠ 0) ∧
    (opField 0x3200000000000001 = Opcode.mkwr.code ∧ wField 0x3200000000000001 ≠ 0) ∧
    (opField 0x3300010000000000 = Opcode.mkrd.code ∧ fbField 0x3300010000000000 ≠ 0) := by decide

theorem witness_ExpTableIsPowersOfAlpha : (254 : Nat) < 255 ∧ alphaPow 254 = alphaPow 254 := by decide

theorem witness_LogIsInverseOfExp : (0x01 : Byte) ≠ 0x00 ∧ (0xFF : Byte) ≠ 0x00 ∧ alphaPow 254 = 0x8E := by decide

theorem witness_FieldLaws : (0x01 : Byte) ≠ 0x00 ∧ gfMul 0x00 0x53 = 0x00 ∧ gfDiv 0xAA 0x55 = some 0x02 := by decide  -- V3.32

theorem witness_GfmulRespondsProduct : State.reset.faulted = false := rfl

theorem witness_GfdivRespondsQuotient : State.reset.faulted = false ∧ (0x01 : Byte) ≠ 0x00 ∧ gfMul 0x8E 0x02 = 0x01 := by decide

theorem witness_GfexpRespondsPower : State.reset.faulted = false := rfl

theorem witness_GflogRespondsLogarithm : State.reset.faulted = false ∧ (0x01 : Byte) ≠ 0x00 := by decide

/-- Success at k + p = 255, failure at 256 and at k = 0 (V4.12, V4.13, V4.11). -/
theorem witness_CtxnewCreatesContext : State.reset.faulted = false ∧
    (1 ≤ (128 : Byte).toNat ∧ (128 : Byte).toNat + (127 : Byte).toNat ≤ 255) ∧
    ((128 : Byte).toNat < 1 ∨ 255 < (128 : Byte).toNat + (128 : Byte).toNat) ∧
    ((0 : Byte).toNat < 1 ∨ 255 < (0 : Byte).toNat + (0 : Byte).toNat) := by decide

theorem witness_CtxrelReleasesContext : ctx21.faulted = false := rfl

theorem witness_GeneratingMatrixIsVandermondeTimesInverse : 1 ≤ 1 ∧ 1 + 254 ≤ 255 ∧ 1 ≤ 255 ∧ 255 + 0 ≤ 255 := by decide

theorem witness_GeneratingMatrixIsSystematic : 1 ≤ 2 ∧ 2 + 1 ≤ 255 ∧ 2 + 253 ≤ 255 ∧ 2 < 2 + 1 ∧ 2 < 2 + 253 ∧ 1 < 2 := by decide

/-- Rows 0 and 2 of the matrix for K = 2, P = 1. -/
theorem witness_AnyKRowsAreInvertible : 1 ≤ 2 ∧ 2 + 1 ≤ 255 ∧ (∀ t, t < 2 → 2 * t < 2 + 1) ∧
    (∀ t u, t < u → u < 2 → 2 * t < 2 * u) := by
  refine ⟨by decide, by decide, ?_, ?_⟩ <;> intros <;> omega

theorem witness_ContextChangesOnlyByItsCommands : ∃ t, step (ctx21.issued 0x1100000000000000) = .next t := ⟨_, rfl⟩

/-- Block size 16 = BLOCK_MAX is legal; the fault clauses are those of `witness_CodingCommandsFaultInOrder`. -/
theorem witness_EncodeWritesParityRows : frame21.faulted = false ∧ frame21.ctxValid = true ∧ (3 : Byte).toNat = frame21.n ∧
    (16 : Word32).toNat ≤ frame21.blockMax.toNat := by decide

theorem witness_EncodeTwiceEqualsOnce : frame21.faulted = false ∧ exec (.encode 3 1) frame21 = .next encoded21 ∧
    encoded21.response = some 0 := ⟨rfl, frame21_encode, rfl⟩

/-- Frame F21 with other data, all-zero data, and the data of a unit shard, each at its one offset. -/
theorem witness_EncodeIsLinear : frame21.faulted = false ∧ frame21.ctxValid = true ∧ (3 : Byte).toNat = frame21.n ∧
    (1 : Word32).toNat ≤ frame21.blockMax.toNat ∧ exec (.encode 3 1) frame21 = .next encoded21 ∧
    (∃ s' t' s'' t'' : State, s' = { frame21 with sh := s'.sh } ∧ s'' = { frame21 with sh := s''.sh } ∧
      exec (.encode 3 1) s' = .next t' ∧ exec (.encode 3 1) s'' = .next t'' ∧
      ∀ i j, i < frame21.k.toNat → j < (1 : Word32).toNat → s''.shByte i j = frame21.shByte i j ^^^ s'.shByte i j) ∧
    (∃ s : State, ∀ i, i < s.k.toNat → s.shByte i 0 = 0x00) ∧
    (∃ s : State, 1 < s.k.toNat ∧ ∀ i, i < s.k.toNat → s.shByte i 0 = if i = 1 then 0x01 else 0x00) := by
  refine ⟨rfl, rfl, by decide, by decide, frame21_encode,
    ⟨(frame21.setShByte 0 0 0x0F).setShByte 1 0 0xF0, _, (frame21.setShByte 0 0 0xA5).setShByte 1 0 0xA5, _, rfl, rfl, rfl, rfl, ?_⟩,
    ⟨(ctx21.setShByte 0 0 0x00).setShByte 1 0 0x00, ?_⟩, ⟨(ctx21.setShByte 0 0 0x00).setShByte 1 0 0x01, by decide, ?_⟩⟩
  · intro i j hi hj
    have hi : i < 2 := hi
    obtain rfl : j = 0 := Nat.lt_one_iff.mp hj
    interval_cases i <;> decide
  · intro i hi
    have hi : i < 2 := hi
    interval_cases i <;> decide
  · intro i hi
    have hi : i < 2 := hi
    interval_cases i <;> decide

/-- The second engine is marked where the first is not, and encodes a longer block. -/
theorem witness_EncodeOffsetsAreIndependentLanes : frame21.faulted = false ∧ (frame21.setMaskByte 0 0x01).faulted = false ∧
    frame21.ctxValid = true ∧ (frame21.setMaskByte 0 0x01).ctxValid = true ∧
    (frame21.setMaskByte 0 0x01).k = frame21.k ∧ (frame21.setMaskByte 0 0x01).p = frame21.p ∧
    (frame21.setMaskByte 0 0x01).gm = frame21.gm ∧ (3 : Byte).toNat = frame21.n ∧
    (1 : Word32).toNat ≤ frame21.blockMax.toNat ∧ (2 : Word32).toNat ≤ (frame21.setMaskByte 0 0x01).blockMax.toNat ∧
    exec (.encode 3 1) frame21 = .next encoded21 ∧ (∃ t', exec (.encode 3 2) (frame21.setMaskByte 0 0x01) = .next t') ∧
    0 < (1 : Word32).toNat ∧ 0 < (2 : Word32).toNat ∧
    ∀ i, i < frame21.k.toNat → (frame21.setMaskByte 0 0x01).shByte i 0 = frame21.shByte i 0 :=
  ⟨rfl, rfl, rfl, rfl, rfl, rfl, rfl, by decide, by decide, by decide, frame21_encode, exec_next _ _, by decide, by decide,
    fun _ _ => by simp only [State.shByte, State.setMaskByte]⟩

theorem witness_EncodeGivesCodeword : frame21.Inv ∧ frame21.faulted = false ∧ frame21.ctxValid = true ∧
    (3 : Byte).toNat = frame21.n ∧ (1 : Word32).toNat ≤ frame21.blockMax.toNat ∧
    exec (.encode 3 1) frame21 = .next encoded21 :=
  ⟨frame21_inv, rfl, rfl, by decide, by decide, frame21_encode⟩

/-- V5.6, exactly P = 1 mark: INV = [8F 8E; 01 00]. It is the witness of ReconRewritesMarkedRows and of
ReconCompletesUpToPMarks. -/
theorem witness_ReconRewritesMarkedRows : lost21.Inv ∧ lost21.faulted = false ∧ lost21.ctxValid = true ∧
    (3 : Byte).toNat = lost21.n ∧ (16 : Word32).toNat ≤ lost21.blockMax.toNat ∧ 1 ≤ lost21.missing.length ∧
    lost21.missing.length ≤ lost21.p.toNat ∧
    inverse lost21.k.toNat lost21.subMatrix = some [[0x8F, 0x8E], [0x01, 0x00]] :=
  ⟨lost21_inv, rfl, rfl, by decide, by decide, by decide +kernel, by decide +kernel, by decide +kernel⟩

theorem witness_ReconWithoutMarksIsNoop : frame21.faulted = false ∧ frame21.ctxValid = true ∧ (3 : Byte).toNat = frame21.n ∧
    (16 : Word32).toNat ≤ frame21.blockMax.toNat ∧ ∀ i, i < frame21.n → frame21.maskByte i = 0x00 := by decide +kernel

/-- Two marks of one parity row, and one mark with P = 0 (V5.10, V5.18). -/
theorem witness_ReconWithTooManyMarksChangesNothing :
    ((lost21.setMaskByte 1 0xFF).faulted = false ∧ (lost21.setMaskByte 1 0xFF).ctxValid = true ∧
      (3 : Byte).toNat = (lost21.setMaskByte 1 0xFF).n ∧
      (lost21.setMaskByte 1 0xFF).p.toNat <
        ((List.range (lost21.setMaskByte 1 0xFF).n).filter fun i => (lost21.setMaskByte 1 0xFF).maskByte i ≠ 0x00).length) ∧
    (({ lost21 with p := 0 } : State).p = 0 ∧ (2 : Byte).toNat = ({ lost21 with p := 0 } : State).n ∧
      0 < ({ lost21 with p := 0 } : State).n ∧ ({ lost21 with p := 0 } : State).maskByte 0 ≠ 0x00) := by decide +kernel

theorem witness_RowSelectorTakesFirstUnmarked : lost21.missing.length ≤ lost21.p.toNat := by decide +kernel

/-- The inverse of the parity rows of context (2, 2): V5.8. -/
theorem witness_InversionEngineGivesTheInverse :
    inverse 2 [[0x02, 0x03], [0x06, 0x07]] = some [[0xC8, 0xC9], [0x8F, 0x8E]] ∧
    ∀ r c, r < 2 → c < 2 → (xorSum 2 fun t => gfMul (entry [[0x02, 0x03], [0x06, 0x07]] r t)
      (entry [[0xC8, 0xC9], [0x8F, 0x8E]] t c)) = if r = c then 0x01 else 0x00 := by
  refine ⟨by decide +kernel, fun r c hr hc => ?_⟩
  interval_cases r <;> interval_cases c <;> decide

theorem witness_ReconNeverFindsSubmatrixSingular : (ctx21.Inv ∧ ctx21.faulted = false ∧ ∃ t, step ctx21 = .next t) ∧
    lost21.Inv ∧ lost21.ctxValid = true ∧ lost21.missing.length ≤ lost21.p.toNat :=
  ⟨⟨ctx21_inv, rfl, _, rfl⟩, lost21_inv, rfl, by decide +kernel⟩

/-- Rows 1 and 2 of frame F21 are rows of the codeword of data AA, 55. -/
theorem witness_ReconRecoversCodeword : lost21.Inv ∧ lost21.faulted = false ∧ lost21.ctxValid = true ∧
    (3 : Byte).toNat = lost21.n ∧ (1 : Word32).toNat ≤ lost21.blockMax.toNat ∧ lost21.missing.length ≤ lost21.p.toNat ∧
    ∀ u j, u < lost21.k.toNat → j < (1 : Word32).toNat → lost21.shByte (lost21.selected.getD u 0) j =
      xorSum lost21.k.toNat fun c => gfMul (entry lost21.gm (lost21.selected.getD u 0) c) (if c = 0 then 0xAA else 0x55) := by
  refine ⟨lost21_inv, rfl, rfl, by decide, by decide, by decide +kernel, fun u j hu hj => ?_⟩
  have hu : u < 2 := hu
  obtain rfl : j = 0 := Nat.lt_one_iff.mp hj
  interval_cases u <;> decide +kernel

theorem witness_EncodeThenReconRestoresAllShards : frame21.Inv ∧ frame21.faulted = false ∧ frame21.ctxValid = true ∧
    (3 : Byte).toNat = frame21.n ∧ (1 : Word32).toNat ≤ frame21.blockMax.toNat ∧
    exec (.encode 3 1) frame21 = .next encoded21 ∧ lost21.Inv ∧ lost21.faulted = false ∧ lost21.ctxValid = true ∧
    lost21.k = encoded21.k ∧ lost21.p = encoded21.p ∧ (1 : Word32).toNat ≤ lost21.blockMax.toNat ∧
    lost21.missing.length ≤ lost21.p.toNat ∧
    ∀ i j, i < lost21.n → lost21.maskByte i = 0x00 → j < (1 : Word32).toNat → lost21.shByte i j = encoded21.shByte i j := by
  refine ⟨frame21_inv, rfl, rfl, by decide, by decide, frame21_encode, lost21_inv, rfl, rfl, rfl, rfl, by decide,
    by decide +kernel, fun i j hi hm hj => ?_⟩
  have hi : i < 3 := hi
  obtain rfl : j = 0 := Nat.lt_one_iff.mp hj
  interval_cases i
  · exact absurd hm (by decide +kernel)
  · decide
  · decide

/-- The second engine's lost row holds another byte and it has a mark at N, which does not count. -/
theorem witness_ReconDependsOnSelectedRowsOnly :
    let s' := (lost21.setShByte 0 0 0x77).setMaskByte 3 0x01
    lost21.Inv ∧ lost21.faulted = false ∧ s'.faulted = false ∧ lost21.ctxValid = true ∧ s'.ctxValid = true ∧
    s'.k = lost21.k ∧ s'.p = lost21.p ∧ s'.gm = lost21.gm ∧ s'.blockMax = lost21.blockMax ∧ (3 : Byte).toNat = lost21.n ∧
    (1 : Word32).toNat ≤ lost21.blockMax.toNat ∧ lost21.missing.length ≤ lost21.p.toNat ∧
    (∀ i, i < lost21.n → (s'.maskByte i = 0x00 ↔ lost21.maskByte i = 0x00)) ∧
    (∀ i ∈ lost21.selected, ∀ j, j < (1 : Word32).toNat → s'.shByte i j = lost21.shByte i j) :=
  ⟨lost21_inv, rfl, rfl, rfl, rfl, rfl, rfl, rfl, rfl, by decide, by decide, by decide +kernel, by decide +kernel,
    by decide +kernel⟩

/-- The last legal place (254, BLOCK_MAX - 1), the first illegal index and the first illegal offset. It is the witness of
ShwrStoresOneByte, ShrdReadsOneByte, MkwrStoresMaskByte and MkrdReadsMaskByte. -/
theorem witness_HostAccess : State.reset.faulted = false ∧ (254 : Byte).toNat ≤ 254 ∧
    (15 : Word32).toNat < State.reset.blockMax.toNat ∧ 254 < (255 : Byte).toNat ∧
    State.reset.blockMax.toNat ≤ (16 : Word32).toNat := by decide

/-- Register 4 in a running and in a faulted engine. -/
theorem witness_RdcsrReadsRegisters : (State.reset.issued 0x4004000000000000).host = [.command 0x4004000000000000] ∧
    opField 0x4004000000000000 = 0x40 ∧ 4 ≤ (faField 0x4004000000000000).toNat ∧
    (State.reset.issued 0x4004000000000000).faulted = false ∧ (faulted.issued 0x4004000000000000).faulted = true := by decide

theorem witness_ReadsHaveNoSideEffect : ∃ t, exec (.shrd 1 0) frame21 = .next t ∧ t.faulted = frame21.faulted :=
  ⟨_, rfl, by decide⟩

theorem witness_WritesAreIdempotent : (∃ t, exec (.shwr 254 15 0xEE) State.reset = .next t) ∧
    ∃ t, exec (.mkwr 254 0x01) State.reset = .next t := ⟨⟨_, rfl⟩, _, rfl⟩

theorem witness_ShardByteChangesOnlyByItsWriters : ∃ t, step (frame21.issued 0x3000000000000000) = .next t ∧
    t.shByte 0 0 ≠ (frame21.issued 0x3000000000000000).shByte 0 0 := ⟨_, rfl, by decide⟩

theorem witness_MaskChangesOnlyByMkwr : ∃ t, step (lost21.issued 0x3200000000000000) = .next t ∧
    t.maskByte 0 ≠ (lost21.issued 0x3200000000000000).maskByte 0 := ⟨_, rfl, by decide +kernel⟩

theorem witness_ReadReturnsLatestWrite : State.reset.faulted = false ∧
    (∃ t, exec (.shwr 254 15 0xEE) State.reset = .next t ∧ t.response = some 0) ∧
    ∃ t, exec (.mkwr 254 0x01) State.reset = .next t ∧ t.response = some 0 :=
  ⟨rfl, ⟨_, rfl, by decide⟩, _, rfl, by decide⟩

end Sys2Proof.Machine
end

section
/-! SUPPORT. BLOCK_MAX is a constant of the engine (R7, R24): no command, illegal word, idle step or reset writes it. -/

namespace Sys2Proof.Machine

variable {s t : State}

/-! ### What the shared operations keep -/

/-- A checked body has every property that its fault entry has and that its effect has on the place the checks found. -/
theorem checked_keeps {α : Type} {P : State → Prop} {cmd : Word} {operand : Except FaultCause α} {effect : α → State}
    (hfault : ∀ c, P (s.raiseFault c cmd)) (heffect : ∀ x, operand = .ok x → P (effect x)) :
    P (s.checked cmd operand effect) := by
  cases operand with
  | error c => exact hfault c
  | ok x => exact heffect x rfl

theorem checked_blockMax {α : Type} {cmd : Word} {operand : Except FaultCause α} {effect : α → State}
    (heffect : ∀ x, (effect x).blockMax = s.blockMax) : (s.checked cmd operand effect).blockMax = s.blockMax :=
  checked_keeps (P := fun u => u.blockMax = s.blockMax) (raiseFault_blockMax s · cmd) fun x _ => heffect x

@[simp] theorem illegal_blockMax (s : State) (cmd : Word) : (s.illegal cmd).blockMax = s.blockMax := by
  cases h : s.faulted with
  | true => rw [illegal_faulted cmd h, drop_blockMax]
  | false => rw [illegal_running cmd h, raiseFault_blockMax]

@[simp] theorem reconstruct_blockMax (s : State) (cmd : Word) (b : Nat) :
    (s.reconstruct cmd b).blockMax = s.blockMax := by
  obtain ⟨_, h⟩ | ⟨_, _, h⟩ | ⟨_, _, _, h⟩ | ⟨_, _, _, _, h⟩ := reconstruct_cases s cmd b <;> simp [h]

/-! ### The commands and the step -/

/-- RDCSR leaves BLOCK_MAX alone, whether it reads a register or is illegal, in a running and in a faulted engine. -/
theorem execRdcsr_next_blockMax (n : Byte) (s : State) :
    ∃ t, exec (.rdcsr n) s = .next t ∧ t.blockMax = s.blockMax := by
  cases h : s.csr n.toNat with
  | some v => exact ⟨_, execRdcsr_csr h, respond_blockMax s v⟩
  | none => exact ⟨_, execRdcsr_noCsr h, illegal_blockMax s _⟩

/-- Every command in a running engine leaves BLOCK_MAX alone: what it writes is other state, or it takes a fault. -/
theorem exec_running_next_blockMax (i : Instr) (h : s.faulted = false) :
    ∃ t, exec i s = .next t ∧ t.blockMax = s.blockMax := by
  cases i with
  | gfmul a b => exact ⟨_, execGfmul_running a b h, respondByte_blockMax s _⟩
  | gfdiv a b =>
    cases hq : gfDiv a b with
    | none => exact ⟨_, execGfdiv_undefined h hq, raiseFault_blockMax s _ _⟩
    | some q => exact ⟨_, execGfdiv_running h hq, respondByte_blockMax s q⟩
  | gfexp e => exact ⟨_, execGfexp_running e h, respondByte_blockMax s _⟩
  | gflog a =>
    cases hl : gfLog a with
    | none => exact ⟨_, execGflog_undefined h hl, raiseFault_blockMax s _ _⟩
    | some l => exact ⟨_, execGflog_running h hl, respondByte_blockMax s l⟩
  | ctxnew k p =>
    refine ⟨_, execCtxnew_running k p h, ?_⟩
    split
    · exact respond_blockMax s 1
    · exact respond_blockMax _ 0
  | ctxrel => exact ⟨_, execCtxrel_running h, respond_blockMax _ 0⟩
  | encode cnt size => exact ⟨_, execEncode_running cnt size h, checked_blockMax fun _ => by simp⟩
  | recon cnt size => exact ⟨_, execRecon_running cnt size h, checked_blockMax (reconstruct_blockMax s _)⟩
  | shwr i j v => exact ⟨_, execShwr_running i j v h, checked_blockMax fun _ => by simp⟩
  | shrd i j => exact ⟨_, execShrd_running i j h, checked_blockMax fun _ => by simp⟩
  | mkwr i v => exact ⟨_, execMkwr_running i v h, checked_blockMax fun _ => by simp⟩
  | mkrd i => exact ⟨_, execMkrd_running i h, checked_blockMax fun _ => by simp⟩
  | rdcsr n => exact execRdcsr_next_blockMax n s

/-- No command writes BLOCK_MAX; a faulted engine drops all of them but RDCSR (R107). -/
theorem exec_blockMax {i : Instr} (h : exec i s = .next t) : t.blockMax = s.blockMax := by
  have hnext : ∃ u, exec i s = .next u ∧ u.blockMax = s.blockMax := by
    cases hf : s.faulted with
    | false => exact exec_running_next_blockMax i hf
    | true =>
      cases i with
      | rdcsr n => exact execRdcsr_next_blockMax n s
      | _ => exact ⟨_, exec_faulted hf nofun, drop_blockMax s⟩
  obtain ⟨u, hu, hkeep⟩ := hnext
  obtain rfl : u = t := by simpa [hu] using h
  exact hkeep

/-- Settles O12, by the four things a step can be: the idle step changes nothing, a reset carries BLOCK_MAX over (R24), and
neither a command nor the fault entry of an illegal word writes it. -/
theorem blockMaxNeverChanges : Obligations.BlockMaxNeverChanges := by
  intro s t h
  obtain ⟨_, rfl⟩ | ⟨rest, _, rfl⟩ | ⟨cmd, rest, i, _, _, hexec⟩ | ⟨cmd, rest, e, _, _, rfl⟩ := step_cases h
  · rfl
  · rw [takeReset_blockMax, withHost_blockMax]
  · rw [exec_blockMax hexec, withHost_blockMax]
  · rw [illegal_blockMax, withHost_blockMax]

end Sys2Proof.Machine
end

section
/-! SUPPORT. What a command word can do to the engine, said once for every word, and the statements of 10_state.md that
follow from it: who changes each piece of state, and that every step keeps the invariant. -/

namespace Sys2Proof.Machine

variable {s t : State}

/-! ### What a command word can do -/

/-- The effects a word that decodes to `d` can have on the state, `w` being the word a fault records. All but a bare
response need a running engine (R107), and all but the fault belong to one command and its passed checks. -/
inductive WordEffect (s : State) (w : Word) (d : Except IllegalWord Instr) : State → Prop
  /-- A read, a command without effect, or a dropped word. -/
  | response (v : Word) : WordEffect s w d (s.respond v)
  | fault (hrun : s.faulted = false) (c : FaultCause) : WordEffect s w d (s.raiseFault c w)
  | createContext (hrun : s.faulted = false) (k p : Byte) (hd : d = .ok (.ctxnew k p)) (hk : 1 ≤ k.toNat)
      (hn : k.toNat + p.toNat ≤ nMax) : WordEffect s w d
        ({ s with k := k, p := p, gm := generatingMatrix k.toNat p.toNat, ctxValid := true }.respond 0)
  | releaseContext (hrun : s.faulted = false) (hd : d = .ok .ctxrel) :
      WordEffect s w d ({ s with ctxValid := false, k := 0, p := 0, gm := [] }.respond 0)
  | writeParity (hrun : s.faulted = false) (cnt : Byte) (size : Word32) (hd : d = .ok (.encode cnt size))
      (hctx : s.ctxValid = true) (hfit : size.toNat ≤ s.blockMax.toNat) :
      WordEffect s w d ((s.writeRows s.parityRows size.toNat s.parityByte).respond 0)
  | writeMarked (hrun : s.faulted = false) (cnt : Byte) (size : Word32) (hd : d = .ok (.recon cnt size))
      (hctx : s.ctxValid = true) (hfit : size.toNat ≤ s.blockMax.toNat) (inv : GfMatrix)
      (hinv : inverse s.k.toNat s.subMatrix = some inv) : WordEffect s w d
        ((s.writeRows s.missing size.toNat fun m => s.recoveredByte (s.coefficientRow inv m)).respond 0)
  | writeShard (hrun : s.faulted = false) (i : Byte) (j : Word32) (v : Byte) (hd : d = .ok (.shwr i j v))
      (hi : i.toNat < nMax) (hj : j.toNat < s.blockMax.toNat) :
      WordEffect s w d ((s.setShByte i.toNat j.toNat v).respond 0)
  | writeMask (hrun : s.faulted = false) (i v : Byte) (hd : d = .ok (.mkwr i v)) (hi : i.toNat < nMax) :
      WordEffect s w d ((s.setMaskByte i.toNat v).respond 0)

theorem illegal_effect (s : State) (cmd : Word) (d : Except IllegalWord Instr) :
    WordEffect s cmd d (s.illegal cmd) := by
  cases h : s.faulted with
  | true => rw [illegal_faulted cmd h]; exact .response allOnes
  | false => rw [illegal_running cmd h]; exact .fault h .illegalCmd

/-- RDCSR answers in a running and in a faulted engine (R107). -/
theorem execRdcsr_effect (n : Byte) (s : State) :
    ∃ t, exec (.rdcsr n) s = .next t ∧ WordEffect s (encode (.rdcsr n)) (.ok (.rdcsr n)) t := by
  cases h : s.csr n.toNat with
  | some v => exact ⟨_, execRdcsr_csr h, .response v⟩
  | none => exact ⟨_, execRdcsr_noCsr h, illegal_effect s _ _⟩

/-- RECON after its checks: a response alone, the fault of a singular matrix, or the marked rows. -/
theorem reconstruct_effect {cnt : Byte} {size : Word32} {w : Word} (h : s.faulted = false) (hctx : s.ctxValid = true)
    (hfit : size.toNat ≤ s.blockMax.toNat) :
    WordEffect s w (.ok (.recon cnt size)) (s.reconstruct w size.toNat) := by
  obtain ⟨_, hr⟩ | ⟨_, _, hr⟩ | ⟨_, _, _, hr⟩ | ⟨_, _, inv, hinv, hr⟩ := reconstruct_cases s w size.toNat <;> rw [hr]
  · exact .response 1
  · exact .response 0
  · exact .fault h .internalSingular
  · exact .writeMarked h cnt size rfl hctx hfit inv hinv

theorem exec_running_effect (i : Instr) (h : s.faulted = false) :
    ∃ t, exec i s = .next t ∧ WordEffect s (encode i) (.ok i) t := by
  cases i with
  | gfmul a b => exact ⟨_, execGfmul_running a b h, .response _⟩
  | gfdiv a b =>
    cases hq : gfDiv a b with
    | none => exact ⟨_, execGfdiv_undefined h hq, .fault h _⟩
    | some q => exact ⟨_, execGfdiv_running h hq, .response _⟩
  | gfexp e => exact ⟨_, execGfexp_running e h, .response _⟩
  | gflog a =>
    cases hl : gfLog a with
    | none => exact ⟨_, execGflog_undefined h hl, .fault h _⟩
    | some l => exact ⟨_, execGflog_running h hl, .response _⟩
  | ctxnew k p =>
    refine ⟨_, execCtxnew_running k p h, ?_⟩
    split
    · exact .response 1
    · exact .createContext h k p rfl (by omega) (by omega)
  | ctxrel => exact ⟨_, execCtxrel_running h, .releaseContext h rfl⟩
  | encode cnt size =>
    refine ⟨_, execEncode_running cnt size h, checked_keeps (.fault h) fun b hb => ?_⟩
    obtain ⟨hctx, _, hfit, rfl⟩ := groupOperand_eq_ok hb
    exact .writeParity h cnt size rfl hctx hfit
  | recon cnt size =>
    refine ⟨_, execRecon_running cnt size h, checked_keeps (.fault h) fun b hb => ?_⟩
    obtain ⟨hctx, _, hfit, rfl⟩ := groupOperand_eq_ok hb
    exact reconstruct_effect h hctx hfit
  | shwr i j v =>
    refine ⟨_, execShwr_running i j v h, checked_keeps (.fault h) fun x hx => ?_⟩
    obtain ⟨hi, hj, rfl⟩ := shardOperand_eq_ok hx
    exact .writeShard h i j v rfl hi hj
  | shrd i j => exact ⟨_, execShrd_running i j h, checked_keeps (.fault h) fun _ _ => .response _⟩
  | mkwr i v =>
    refine ⟨_, execMkwr_running i v h, checked_keeps (.fault h) fun x hx => ?_⟩
    obtain ⟨hi, rfl⟩ := maskOperand_eq_ok hx
    exact .writeMask h i v rfl hi
  | mkrd i => exact ⟨_, execMkrd_running i h, checked_keeps (.fault h) fun _ _ => .response _⟩
  | rdcsr n => exact execRdcsr_effect n s

/-- What a command can do, in a running engine and in a faulted one. -/
theorem exec_effect {i : Instr} (h : exec i s = .next t) : WordEffect s (encode i) (.ok i) t := by
  have hnext : ∃ u, exec i s = .next u ∧ WordEffect s (encode i) (.ok i) u := by
    cases hf : s.faulted with
    | false => exact exec_running_effect i hf
    | true =>
      cases i with
      | rdcsr n => exact execRdcsr_effect n s
      | _ => exact ⟨_, exec_faulted hf nofun, .response allOnes⟩
  obtain ⟨u, hu, heff⟩ := hnext
  obtain rfl : u = t := by simpa [hu] using h
  exact heff

/-- The three things a step can be: idle, a reset, or a word with one of the effects of its decoding. -/
theorem step_effect (h : step s = .next t) :
    (s.host = [] ∧ t = s) ∨
    (∃ rest, s.host = .reset :: rest ∧ t = (s.withHost rest).takeReset) ∨
    (∃ cmd rest w, s.host = .command cmd :: rest ∧ WordEffect (s.withHost rest) w (decode cmd) t) := by
  obtain h | h | ⟨cmd, rest, i, hhost, hd, hexec⟩ | ⟨cmd, rest, e, hhost, _, rfl⟩ := step_cases h
  · exact .inl h
  · exact .inr (.inl h)
  · exact .inr (.inr ⟨cmd, rest, _, hhost, hd ▸ exec_effect hexec⟩)
  · exact .inr (.inr ⟨cmd, rest, cmd, hhost, illegal_effect _ cmd _⟩)

/-! ### Who changes each piece of state -/

section
variable {w : Word} {d : Except IllegalWord Instr}

/-- A faulted engine only responds. -/
theorem WordEffect.eq_respond_of_faulted (h : WordEffect s w d t) (hf : s.faulted = true) : ∃ v, t = s.respond v := by
  cases h with
  | response v => exact ⟨v, rfl⟩
  | _ hrun => exact absurd hf (by simp [hrun])

theorem WordEffect.context_eq (h : WordEffect s w d t) :
    (t.ctxValid = s.ctxValid ∧ t.k = s.k ∧ t.p = s.p ∧ t.gm = s.gm) ∨
    (s.faulted = false ∧ ((∃ k p, d = .ok (.ctxnew k p)) ∨ d = .ok .ctxrel)) := by
  cases h with
  | createContext hrun k p hd => exact .inr ⟨hrun, .inl ⟨k, p, hd⟩⟩
  | releaseContext hrun hd => exact .inr ⟨hrun, .inr hd⟩
  | _ => exact .inl ⟨rfl, rfl, rfl, rfl⟩

theorem WordEffect.maskByte_ne {i : Nat} (h : WordEffect s w d t) (hne : t.maskByte i ≠ s.maskByte i) :
    s.faulted = false ∧ ∃ a : Byte, d = .ok (.mkwr a (t.maskByte i)) ∧ a.toNat = i := by
  cases h with
  | writeMask hrun a v hd ha =>
    rw [maskByte_respond, maskByte_setMaskByte s i v ha] at hne ⊢
    by_cases hia : i = a.toNat
    · exact ⟨hrun, a, by rw [if_pos hia, hd], hia.symm⟩
    · rw [if_neg hia] at hne
      exact absurd rfl hne
  | _ => exact absurd rfl hne

theorem mem_parityRows {r : Nat} : r ∈ s.parityRows ↔ s.k.toNat ≤ r ∧ r < s.n := by
  simp [State.parityRows, State.n, List.mem_range'_1]

theorem mem_missing {r : Nat} : r ∈ s.missing ↔ r < s.n ∧ s.maskByte r ≠ 0x00 := by
  simp [State.missing]

/-- Writing rows changes only bytes of those rows, below the block size. -/
theorem mem_of_shByte_writeRows_ne {rows : List Nat} {size : Word32} {e : Nat → Nat → Byte} {i j : Nat}
    (hj : j < 2 ^ 32) (hne : (s.writeRows rows size.toNat e).shByte i j ≠ s.shByte i j) :
    i ∈ rows ∧ j < size.toNat := by
  rw [shByte_writeRows s rows e size.isLt.le hj] at hne
  by_contra hout
  exact hne (if_neg hout)

theorem WordEffect.shByte_ne {i j : Nat} (h : WordEffect s w d t) (hj : j < 2 ^ 32)
    (hne : t.shByte i j ≠ s.shByte i j) : s.faulted = false ∧
    ((∃ (a : Byte) (b : Word32) (v : Byte), d = .ok (.shwr a b v) ∧ i = a.toNat ∧ j = b.toNat ∧ t.shByte i j = v) ∨
     (∃ cnt size, d = .ok (.encode cnt size) ∧ s.k.toNat ≤ i ∧ i < s.n ∧ j < size.toNat) ∨
     (∃ cnt size, d = .ok (.recon cnt size) ∧ i < s.n ∧ s.maskByte i ≠ 0x00 ∧ j < size.toNat)) := by
  cases h with
  | writeShard hrun a b v hd =>
    rw [shByte_respond] at hne ⊢
    by_cases hplace : i = a.toNat ∧ j = b.toNat
    · obtain ⟨rfl, rfl⟩ := hplace
      exact ⟨hrun, .inl ⟨a, b, v, hd, rfl, rfl, shByte_setShByte_same s _ _ v⟩⟩
    · exact absurd (shByte_setShByte_other s v b.isLt hj hplace) hne
  | writeParity hrun cnt size hd =>
    obtain ⟨hrow, hsize⟩ := mem_of_shByte_writeRows_ne hj hne
    obtain ⟨hk, hn⟩ := mem_parityRows.mp hrow
    exact ⟨hrun, .inr (.inl ⟨cnt, size, hd, hk, hn, hsize⟩)⟩
  | writeMarked hrun cnt size hd =>
    obtain ⟨hrow, hsize⟩ := mem_of_shByte_writeRows_ne hj hne
    obtain ⟨hn, hmark⟩ := mem_missing.mp hrow
    exact ⟨hrun, .inr (.inr ⟨cnt, size, hd, hn, hmark, hsize⟩)⟩
  | _ => exact absurd rfl hne

end

/-- Settles O14: a faulted engine only responds to a word, and an idle step changes nothing. -/
theorem onlyResetClearsFaulted : Obligations.OnlyResetClearsFaulted := by
  intro s t hf h
  obtain ⟨_, rfl⟩ | ⟨rest, hhost, _⟩ | ⟨cmd, rest, w, _, heff⟩ := step_effect h
  · exact .inr ⟨hf, rfl, rfl⟩
  · exact .inl ⟨rest, hhost⟩
  · obtain ⟨v, rfl⟩ := heff.eq_respond_of_faulted hf
    exact .inr ⟨hf, rfl, rfl⟩

/-- Settles O31: of the effects of a word, only those of CTXNEW and CTXREL touch the context. -/
theorem contextChangesOnlyByItsCommands : Obligations.ContextChangesOnlyByItsCommands := by
  intro s t h
  obtain ⟨_, rfl⟩ | ⟨rest, hhost, _⟩ | ⟨cmd, rest, w, hhost, heff⟩ := step_effect h
  · exact .inl ⟨rfl, rfl, rfl, rfl⟩
  · exact .inr (.inl ⟨rest, hhost⟩)
  · exact heff.context_eq.imp_right fun ⟨hrun, hd⟩ => .inr ⟨cmd, rest, hhost, hrun, hd⟩

/-- Settles O54: of the effects of a word, only those of SHWR, ENCODE and RECON touch shard memory, in their own places. -/
theorem shardByteChangesOnlyByItsWriters : Obligations.ShardByteChangesOnlyByItsWriters := by
  intro s t i j h hj hne
  obtain ⟨_, rfl⟩ | ⟨rest, hhost, _⟩ | ⟨cmd, rest, w, hhost, heff⟩ := step_effect h
  · exact absurd rfl hne
  · exact .inl ⟨rest, hhost⟩
  · exact .inr ⟨cmd, rest, hhost, heff.shByte_ne hj hne⟩

/-- Settles O55: of the effects of a word, only that of MKWR touches the mask, at its own index. -/
theorem maskChangesOnlyByMkwr : Obligations.MaskChangesOnlyByMkwr := by
  intro s t i h hne
  obtain ⟨_, rfl⟩ | ⟨rest, hhost, _⟩ | ⟨cmd, rest, w, hhost, heff⟩ := step_effect h
  · exact absurd rfl hne
  · exact .inl ⟨rest, hhost⟩
  · obtain ⟨hrun, hd⟩ := heff.maskByte_ne hne
    exact .inr ⟨cmd, rest, _, hhost, hrun, rfl, hd⟩

/-! ### What each update of the state does to the invariant -/

theorem State.Inv.withHost (h : s.Inv) (rest : List HostAction) : (s.withHost rest).Inv :=
  ⟨h.blockMax_pos, h.context, h.faults, h.shards⟩

theorem State.Inv.respond (h : s.Inv) (v : Word) : (s.respond v).Inv :=
  ⟨h.blockMax_pos, h.context, h.faults, h.shards⟩

theorem State.Inv.setMaskByte (h : s.Inv) (i : Nat) (v : Byte) : (s.setMaskByte i v).Inv :=
  ⟨h.blockMax_pos, h.context, h.faults, h.shards⟩

/-- Fault entry records a cause of R104. -/
theorem State.Inv.raiseFault (h : s.Inv) (c : FaultCause) (w : Word) : (s.raiseFault c w).Inv :=
  ⟨h.blockMax_pos, h.context, ⟨nofun, fun _ => ⟨c, rfl⟩⟩, h.shards⟩

theorem State.Inv.createContext (h : s.Inv) {k p : Byte} (hk : 1 ≤ k.toNat) (hn : k.toNat + p.toNat ≤ nMax) :
    { s with k := k, p := p, gm := generatingMatrix k.toNat p.toNat, ctxValid := true }.Inv :=
  ⟨h.blockMax_pos, ⟨fun _ => ⟨hk, hn, rfl⟩, nofun⟩, h.faults, h.shards⟩

theorem State.Inv.releaseContext (h : s.Inv) : { s with ctxValid := false, k := 0, p := 0, gm := [] }.Inv :=
  ⟨h.blockMax_pos, ⟨nofun, fun _ => ⟨rfl, rfl, rfl⟩⟩, h.faults, h.shards⟩

theorem State.Inv.takeReset (h : s.Inv) : s.takeReset.Inv :=
  ⟨h.blockMax_pos, ⟨nofun, fun _ => ⟨rfl, rfl, rfl⟩⟩, ⟨fun _ => ⟨rfl, rfl⟩, nofun⟩,
    ⟨resetWith_memory_wf s.blockMax (s.resets + 1), nofun⟩⟩

/-- A byte written inside shard space lists a place of shard space. -/
theorem State.Inv.setShByte (h : s.Inv) {i j : Nat} (hi : i < nMax) (hj : j < s.blockMax.toNat) (v : Byte) :
    (s.setShByte i j v).Inv := by
  obtain ⟨hwf, hspace⟩ := h.shards
  refine ⟨h.blockMax_pos, h.context, h.faults, Memory.write_wf _ v hwf, fun x hx => ?_⟩
  obtain rfl | hx := Memory.mem_write hx
  · exact ⟨i, j, hi, hj, rfl⟩
  · exact hspace x hx

/-- Rows of shard space written below a block size that fits list places of shard space only. -/
theorem State.Inv.writeRows (h : s.Inv) {rows : List Nat} {size : Nat} (hrows : ∀ r ∈ rows, r < nMax)
    (hfit : size ≤ s.blockMax.toNat) (e : Nat → Nat → Byte) : (s.writeRows rows size e).Inv := by
  obtain ⟨hwf, hspace⟩ := h.shards
  refine ⟨h.blockMax_pos, h.context, h.faults, Memory.writeRows_wf rows size e hwf, fun x hx => ?_⟩
  obtain ⟨i, hi, j, hj, hkey⟩ | hx := Memory.mem_writeRows hx
  · exact ⟨i, j, hrows i hi, hj.trans_le hfit, hkey⟩
  · exact hspace x hx

/-- A held context has at most N_MAX shards (R71). -/
theorem State.Inv.n_le_nMax (h : s.Inv) (hctx : s.ctxValid = true) : s.n ≤ nMax :=
  have ⟨_, hn, _⟩ := h.context.1 hctx
  hn

/-- No effect of a word leaves the invariant: ENCODE and RECON write rows below N, which is at most N_MAX. -/
theorem WordEffect.keeps_inv {w : Word} {d : Except IllegalWord Instr} (h : WordEffect s w d t) (hs : s.Inv) : t.Inv := by
  cases h with
  | response v => exact hs.respond v
  | fault _ c => exact hs.raiseFault c w
  | createContext _ _ _ _ hk hn => exact (hs.createContext hk hn).respond 0
  | releaseContext => exact hs.releaseContext.respond 0
  | writeParity _ _ _ _ hctx hfit =>
    have hrows : ∀ r ∈ s.parityRows, r < nMax := fun r hr =>
      (mem_parityRows.mp hr).2.trans_le (hs.n_le_nMax hctx)
    exact (hs.writeRows hrows hfit _).respond 0
  | writeMarked _ _ _ _ hctx hfit =>
    have hrows : ∀ r ∈ s.missing, r < nMax := fun r hr =>
      (mem_missing.mp hr).1.trans_le (hs.n_le_nMax hctx)
    exact (hs.writeRows hrows hfit _).respond 0
  | writeShard _ _ _ v _ hi hj => exact (hs.setShByte hi hj v).respond 0
  | writeMask _ i v => exact (hs.setMaskByte i.toNat v).respond 0

/-- Settles O10, by the three things a step can be: the idle step changes nothing, a reset makes the invariant hold anew, and
every effect of a word keeps it. -/
theorem stepKeepsInvariant : Obligations.StepKeepsInvariant := by
  intro s t hs h
  obtain ⟨_, rfl⟩ | ⟨rest, _, rfl⟩ | ⟨cmd, rest, w, _, heff⟩ := step_effect h
  · exact hs
  · exact (hs.withHost rest).takeReset
  · exact heff.keeps_inv (hs.withHost rest)

end Sys2Proof.Machine
end

section
/-! SUPPORT. The host's reads and writes of the memories (20_memory.md): an access outside a space is a fault, a read has no
side effect, a write is idempotent, and a read answers the latest write. -/

namespace Sys2Proof.Machine

variable {s t : State}

/-! ### Writing the same place again -/

/-- The second of two writes to one address is the one that counts, whatever the memory's form. -/
@[simp] theorem Memory.write_write_same (m : Memory) (a : Nat) (u v : Byte) :
    (m.write a u).write a v = m.write a v := by
  induction m with
  | nil => simp [Memory.write]
  | cons x rest ih =>
    obtain ⟨b, w⟩ := x
    obtain hlt | rfl | hgt := Nat.lt_trichotomy a b
    · simp [Memory.write, hlt]
    · simp [Memory.write]
    · simp [Memory.write, Nat.not_lt.mpr hgt.le, hgt.ne', ih]

@[simp] theorem setShByte_respond_setShByte_same (s : State) (i j : Nat) (u v : Byte) (r : Word) :
    ((s.setShByte i j u).respond r).setShByte i j v = (s.setShByte i j v).respond r := by
  simp [State.setShByte, State.respond]

@[simp] theorem setMaskByte_respond_setMaskByte_same (s : State) (i : Nat) (u v : Byte) (r : Word) :
    ((s.setMaskByte i u).respond r).setMaskByte i v = (s.setMaskByte i v).respond r := by
  simp [State.setMaskByte, State.respond]

@[simp] theorem respond_respond (s : State) (u v : Word) : (s.respond u).respond v = s.respond v := rfl

/-! ### A command with operand checks, in a running engine -/

section
variable {α : Type} {i : Instr} {operand : Except FaultCause α} {effect : α → State}

/-- A command whose checks find a fault takes the fault entry of R106, and nothing else happens. -/
theorem exec_eq_faultEntry {c : FaultCause} (hexec : exec i s = .next (s.checked (encode i) operand effect))
    (hc : operand = .error c) : exec i s = .next (s.faultEntry c.code (encode i)) := by
  rw [hexec, hc]
  rfl

/-- A command whose checks pass has its effect. -/
theorem exec_eq_effect {x : α} (hexec : exec i s = .next (s.checked (encode i) operand effect)) (hx : operand = .ok x) :
    exec i s = .next (effect x) := by
  rw [hexec, hx, checked_ok]

/-- A command that responds 0 took no fault: its checks passed, and it had its effect. -/
theorem eq_effect_of_response_zero (hexec : exec i s = .next (s.checked (encode i) operand effect))
    (h : exec i s = .next t) (hr : t.response = some 0) : ∃ x, operand = .ok x ∧ t = effect x := by
  obtain rfl : s.checked (encode i) operand effect = t := by simpa [hexec] using h
  cases operand with
  | error c => exact absurd hr (by simp [allOnes])
  | ok x => exact ⟨x, rfl, rfl⟩

end

/-- Settles O16: each access fails the check of its operand form, and a failed check is a fault entry. -/
theorem accessOutsideSpaceFaults : Obligations.AccessOutsideSpaceFaults := by
  intro s hrun
  have hindex : ¬ (255 : Byte).toNat < nMax := by decide
  refine ⟨fun j v => ?_, fun j => ?_, fun v => ?_, ?_, fun i v j hi hj => ?_, fun cnt size hctx hcnt hsize => ?_⟩
  · exact exec_eq_faultEntry (execShwr_running 255 j v hrun) (shardOperand_badIndex j hindex)
  · exact exec_eq_faultEntry (execShrd_running 255 j hrun) (shardOperand_badIndex j hindex)
  · exact exec_eq_faultEntry (execMkwr_running 255 v hrun) (maskOperand_badIndex hindex)
  · exact exec_eq_faultEntry (execMkrd_running 255 hrun) (maskOperand_badIndex hindex)
  · have hrow : i.toNat < nMax := by
      simp only [nMax]
      bv_omega
    have hblock := shardOperand_badBlock hrow (Nat.not_lt.mpr hj)
    exact ⟨exec_eq_faultEntry (execShwr_running i j v hrun) hblock,
      exec_eq_faultEntry (execShrd_running i j hrun) hblock⟩
  · have hblock := groupOperand_badBlock hctx hcnt hsize
    exact ⟨exec_eq_faultEntry (execEncode_running cnt size hrun) hblock,
      exec_eq_faultEntry (execRecon_running cnt size hrun) hblock⟩

/-! ### Reads -/

/-- Settles O52: of the effects of a word, all but the bare response and the fault belong to a command that is no read. -/
theorem readsHaveNoSideEffect : Obligations.ReadsHaveNoSideEffect := by
  intro s t i h hfaulted hread
  cases exec_effect h with
  | response v => rfl
  | fault hrun c => simp [hrun] at hfaulted
  | _ =>
    cases ‹Except.ok i = Except.ok _›
    simp at hread

/-! ### Writes -/

theorem drop_eq_self (h : s.response = some allOnes) : s.drop = s := by
  simp only [State.drop, State.respond, ← h]

/-- In a faulted engine that has responded ALL_ONES, every command but RDCSR leaves the very same state (R107). -/
theorem exec_eq_self_of_faulted {i : Instr} (hf : s.faulted = true) (hr : s.response = some allOnes)
    (hi : ∀ n, i ≠ .rdcsr n) : exec i s = .next s := by
  rw [exec_faulted hf fun n hn => absurd hn (hi n), drop_eq_self hr]

/-- A command is idempotent if its effect is: where the checks pass, the effect keeps what they look at, leaves the engine
running and does nothing new the second time. A fault or a dropped command is repeated as a dropped command. -/
theorem exec_again {α : Type} {i : Instr} {operand : State → Except FaultCause α} {effect : State → α → State}
    (hexec : ∀ u, u.faulted = false → exec i u = .next (u.checked (encode i) (operand u) (effect u)))
    (hi : ∀ n, i ≠ .rdcsr n) (hrunning : ∀ x, operand s = .ok x → (effect s x).faulted = s.faulted)
    (hoperand : ∀ x, operand s = .ok x → operand (effect s x) = operand s)
    (heffect : ∀ x, operand s = .ok x → effect (effect s x) x = effect s x)
    (h : exec i s = .next t) : exec i t = .next t := by
  cases hf : s.faulted with
  | true =>
    obtain rfl : s.drop = t := by simpa [exec_faulted hf fun n hn => absurd hn (hi n)] using h
    exact exec_eq_self_of_faulted hf rfl hi
  | false =>
    obtain rfl : s.checked (encode i) (operand s) (effect s) = t := by simpa [hexec s hf] using h
    cases hx : operand s with
    | error c => exact exec_eq_self_of_faulted rfl rfl hi
    | ok x =>
      rw [checked_ok, hexec _ ((hrunning x hx).trans hf), hoperand x hx, hx, checked_ok, heffect x hx]

/-- Settles O53: SHWR and MKWR keep what their checks look at, and store the same byte in the same place again. -/
theorem writesAreIdempotent : Obligations.WritesAreIdempotent := by
  rintro s t i h (⟨a, j, v, rfl⟩ | ⟨a, v, rfl⟩)
  · exact exec_again (fun _ => execShwr_running a j v) nofun (fun _ _ => rfl) (fun _ _ => rfl) (fun _ _ => by simp) h
  · exact exec_again (fun _ => execMkwr_running a v) nofun (fun _ _ => rfl) (fun _ _ => rfl) (fun _ _ => by simp) h

/-! ### A read after a write -/

/-- Settles O56: a write that responds 0 has stored its byte, so the check of the read passes and the read finds it. -/
theorem readReturnsLatestWrite : Obligations.ReadReturnsLatestWrite := by
  constructor
  · intro s t i v j hrun h hr
    obtain ⟨x, hx, rfl⟩ := eq_effect_of_response_zero (execShwr_running i j v hrun) h hr
    exact ⟨_, exec_eq_effect (execShrd_running i j hrun) hx, by simp⟩
  · intro s t i v hrun h hr
    obtain ⟨x, hx, rfl⟩ := eq_effect_of_response_zero (execMkwr_running i v hrun) h hr
    obtain ⟨hi, rfl⟩ := maskOperand_eq_ok hx
    exact ⟨_, exec_eq_effect (execMkrd_running i hrun) hx, by simp [maskByte_setMaskByte s _ v hi]⟩

/-! ### The step -/

/-- Settles O6, by the equation of the step for a word that decodes. -/
theorem stepRunsDecodedCommand : Obligations.StepRunsDecodedCommand :=
  fun _ _ _ _ hhost hd => step_command hhost hd

end Sys2Proof.Machine
end

section
/-! SUPPORT. The command encoding (30_encoding.md): when a word is legal, the mask and match reading of R44, and the
statements about the decoder and the encoder. -/

namespace Sys2Proof

variable {cmd : Word} {o : Opcode} {i : Instr}

/-! ### The opcode map -/

theorem Opcode.mem_all (o : Opcode) : o ∈ Opcode.all := by
  cases o <;> decide

/-- The opcode map finds each row under its own opcode: no two rows share one. -/
@[simp] theorem Opcode.ofCode_code (o : Opcode) : Opcode.ofCode o.code = some o := by
  cases o <;> rfl

theorem Opcode.code_injective {o o' : Opcode} (h : o.code = o'.code) : o = o' := by
  simpa using congrArg Opcode.ofCode h

theorem Opcode.ofCode_eq_some_iff {op : Byte} : Opcode.ofCode op = some o ↔ op = o.code := by
  constructor
  · intro h
    exact (by simpa using List.find?_some h : o.code = op).symm
  · rintro rfl
    exact o.ofCode_code

@[simp] theorem Opcode.opcode_command (o : Opcode) (fa fb : Byte) (w : Word32) : (o.command fa fb w).opcode = o := by
  cases o <;> rfl

/-- The check of ground (d) of R45 is that of a well-formed command. -/
theorem Opcode.command_wellFormed_iff (o : Opcode) (fa fb : Byte) (w : Word32) :
    (o.command fa fb w).wellFormed = true ↔ ¬ (o = .rdcsr ∧ lastCsr < fa) := by
  cases o <;> simp [Opcode.command, Instr.wellFormed]

/-! ### Legal words -/

/-- The word passes the four checks of R45 for the row `o`, so that it is the row's command. -/
structure Opcode.IsLegal (o : Opcode) (cmd : Word) : Prop where
  op : opField cmd = o.code
  rsv : rsvField cmd = 0
  unused : o.format.unusedZero (faField cmd) (fbField cmd) (wField cmd) = true
  wellFormed : (o.command (faField cmd) (fbField cmd) (wField cmd)).wellFormed = true

/-- A legal word decodes to its row's command with the operands of its fields (R43, R47). -/
theorem Opcode.IsLegal.decode_eq (h : o.IsLegal cmd) :
    decode cmd = .ok (o.command (faField cmd) (fbField cmd) (wField cmd)) := by
  have hcsr := (o.command_wellFormed_iff _ _ _).mp h.wellFormed
  simp only [decode, h.op, o.ofCode_code, h.rsv, h.unused, hcsr, ne_eq, not_true, if_false]

theorem isLegal_of_decode_eq_ok (h : decode cmd = .ok i) :
    i.opcode.IsLegal cmd ∧ i.opcode.command (faField cmd) (fbField cmd) (wField cmd) = i := by
  unfold decode at h
  split at h
  · cases h
  · next o ho =>
    split_ifs at h with hrsv hunused hcsr
    cases h
    rw [o.opcode_command]
    exact ⟨⟨Opcode.ofCode_eq_some_iff.mp ho, not_not.mp hrsv, hunused, (o.command_wellFormed_iff _ _ _).mpr hcsr⟩, rfl⟩

/-- What the decoder does, said once: it answers a command exactly for a word that is legal for the command's row and holds
the command's operands in the row's fields. -/
theorem decode_eq_ok_iff : decode cmd = .ok i ↔
    i.opcode.IsLegal cmd ∧ i.opcode.command (faField cmd) (fbField cmd) (wField cmd) = i := by
  refine ⟨isLegal_of_decode_eq_ok, fun ⟨hlegal, hi⟩ => ?_⟩
  rw [hlegal.decode_eq, hi]

/-- The decoder is total: it rejects exactly the words that are legal for no row (R45, R47). -/
theorem decode_eq_error_iff : (∃ e, decode cmd = .error e) ↔ ∀ o : Opcode, ¬ o.IsLegal cmd := by
  constructor
  · rintro ⟨e, he⟩ o hlegal
    rw [hlegal.decode_eq] at he
    cases he
  · intro hillegal
    cases hd : decode cmd with
    | error e => exact ⟨e, rfl⟩
    | ok i => exact absurd (isLegal_of_decode_eq_ok hd).1 (hillegal _)

/-! ### The encoder -/

theorem Laws.EncodedFields.all (i : Instr) : Laws.EncodedFields.Statement i := by
  cases i with
  | gfmul a b => exact gfmul a b
  | gfdiv a b => exact gfdiv a b
  | gfexp e => exact gfexp e
  | gflog a => exact gflog a
  | ctxnew k p => exact ctxnew k p
  | ctxrel => exact ctxrel
  | encode cnt size => exact Laws.EncodedFields.encode cnt size
  | recon cnt size => exact recon cnt size
  | shwr shard offset v => exact shwr shard offset v
  | shrd shard offset => exact shrd shard offset
  | mkwr shard v => exact mkwr shard v
  | mkrd shard => exact mkrd shard
  | rdcsr n => exact rdcsr n

/-- The encoder packs the row's opcode and the operands, where the fields the row does not use are 0 (R48). -/
theorem encode_command {fa fb : Byte} {w : Word32} (h : o.format.unusedZero fa fb w = true) :
    encode (o.command fa fb w) = packFields o.code fa fb 0 w := by
  cases o <;> simp_all [Opcode.format, Format.unusedZero, Opcode.command, encode, Opcode.code]

/-- The word of a legal row's command is the legal word itself. -/
theorem Opcode.IsLegal.encode_command (h : o.IsLegal cmd) :
    Sys2Proof.encode (o.command (faField cmd) (fbField cmd) (wField cmd)) = cmd := by
  rw [Sys2Proof.encode_command h.unused, ← h.op, ← h.rsv, packFields_fields]

/-! ### Mask and match

The masks and matches are read field by field: all of `op` and `rsv` is masked in every row, the operand fields as far as
the row does not use them. -/

/-- Two words are equal exactly when their fields are (R41). -/
theorem word_eq_iff_fields {a b : Word} : a = b ↔ opField a = opField b ∧ faField a = faField b ∧
    fbField a = fbField b ∧ rsvField a = rsvField b ∧ wField a = wField b := by
  constructor
  · rintro rfl
    exact ⟨rfl, rfl, rfl, rfl, rfl⟩
  · rintro ⟨hop, hfa, hfb, hrsv, hw⟩
    rw [← packFields_fields a, hop, hfa, hfb, hrsv, hw, packFields_fields]

section
variable (a b : Word)

@[simp] theorem opField_and : opField (a &&& b) = opField a &&& opField b := BitVec.extractLsb'_and ..
@[simp] theorem faField_and : faField (a &&& b) = faField a &&& faField b := BitVec.extractLsb'_and ..
@[simp] theorem fbField_and : fbField (a &&& b) = fbField a &&& fbField b := BitVec.extractLsb'_and ..
@[simp] theorem rsvField_and : rsvField (a &&& b) = rsvField a &&& rsvField b := BitVec.extractLsb'_and ..
@[simp] theorem wField_and : wField (a &&& b) = wField a &&& wField b := BitVec.extractLsb'_and ..

end

/-- Every row matches its opcode in `op` and 0 in the other fields (R44). -/
theorem Opcode.matchWord_eq (o : Opcode) : o.matchWord = packFields o.code 0 0 0 0 := by
  cases o <;> rfl

theorem Opcode.opField_maskWord (o : Opcode) : opField o.maskWord = BitVec.allOnes 8 := by
  cases o <;> rfl

theorem Opcode.rsvField_maskWord (o : Opcode) : rsvField o.maskWord = BitVec.allOnes 8 := by
  cases o <;> rfl

/-- `BitVec.and_allOnes` with the literal that the fields of the mask column evaluate to; so is the next. -/
theorem and_allOnes_byte (x : Byte) : x &&& 255#8 = x := BitVec.and_allOnes

theorem and_allOnes_word32 (x : Word32) : x &&& 4294967295#32 = x := BitVec.and_allOnes

/-- The mask of RDCSR leaves the two low bits of `fa` free: the register numbers 0 to 3. -/
theorem and_252_eq_zero_iff : ∀ fa : Byte, fa &&& 252#8 = 0#8 ↔ fa ≤ lastCsr := by
  decide

/-- In the three operand fields the mask of a row asks what its format and the check of RDCSR ask. -/
theorem Opcode.operands_and_maskWord_iff (o : Opcode) (fa fb : Byte) (w : Word32) :
    (fa &&& faField o.maskWord = 0 ∧ fb &&& fbField o.maskWord = 0 ∧ w &&& wField o.maskWord = 0) ↔
    o.format.unusedZero fa fb w = true ∧ (o.command fa fb w).wellFormed = true := by
  cases o <;> simp [Opcode.maskWord, faField, fbField, wField, Opcode.format, Format.unusedZero, Opcode.command,
    Instr.wellFormed, and_allOnes_byte, and_allOnes_word32, and_252_eq_zero_iff,
    and_comm, and_left_comm]

/-- R44: the mask and match reading of a row is the field by field reading of the decoder. -/
theorem Opcode.and_maskWord_eq_matchWord_iff : cmd &&& o.maskWord = o.matchWord ↔ o.IsLegal cmd := by
  have hoperands := o.operands_and_maskWord_iff (faField cmd) (fbField cmd) (wField cmd)
  simp only [word_eq_iff_fields, opField_and, faField_and, fbField_and, rsvField_and, wField_and, o.matchWord_eq,
    opField_packFields, faField_packFields, fbField_packFields, rsvField_packFields, wField_packFields,
    o.opField_maskWord, o.rsvField_maskWord, BitVec.and_allOnes]
  constructor
  · rintro ⟨hop, hfa, hfb, hrsv, hw⟩
    obtain ⟨hunused, hwf⟩ := hoperands.mp ⟨hfa, hfb, hw⟩
    exact ⟨hop, hrsv, hunused, hwf⟩
  · rintro ⟨hop, hrsv, hunused, hwf⟩
    obtain ⟨hfa, hfb, hw⟩ := hoperands.mpr ⟨hunused, hwf⟩
    exact ⟨hop, hfa, hfb, hrsv, hw⟩

/-! ### Illegal words -/

theorem Opcode.mem_codes_iff {op : Byte} : op ∈ Opcode.all.map Opcode.code ↔ ∃ o : Opcode, op = o.code := by
  simp [Opcode.mem_all, eq_comm]

/-- A word of the row `o` is illegal exactly when the row's own checks find a ground: its opcode belongs to no other row. -/
theorem decode_eq_error_iff_of_opField (hop : opField cmd = o.code) : (∃ e, decode cmd = .error e) ↔
    rsvField cmd ≠ 0 ∨ ¬ (o.format.unusedZero (faField cmd) (fbField cmd) (wField cmd) = true ∧
      (o.command (faField cmd) (fbField cmd) (wField cmd)).wellFormed = true) := by
  rw [decode_eq_error_iff, ← not_and_or]
  constructor
  · rintro hillegal ⟨hrsv, hunused, hwf⟩
    exact hillegal o ⟨hop, hrsv, hunused, hwf⟩
  · rintro hbad o' ⟨hop', hrsv, hunused, hwf⟩
    obtain rfl := Opcode.code_injective (hop.symm.trans hop')
    exact hbad ⟨hrsv, hunused, hwf⟩

theorem lastCsr_lt_iff (n : Byte) : lastCsr < n ↔ 4 ≤ n.toNat := BitVec.lt_def

/-- Grounds (c) and (d) of R45 for a row, listed by the opcodes of each format. -/
theorem Opcode.illegal_operands_iff (o : Opcode) (fa fb : Byte) (w : Word32) :
    ¬ (o.format.unusedZero fa fb w = true ∧ (o.command fa fb w).wellFormed = true) ↔
    (o.code ∈ [0x01, 0x02, 0x10, 0x32] ∧ w ≠ 0) ∨
    (o.code ∈ [0x03, 0x04, 0x33, 0x40] ∧ (fb ≠ 0 ∨ w ≠ 0)) ∨
    (o.code = 0x11 ∧ (fa ≠ 0 ∨ fb ≠ 0 ∨ w ≠ 0)) ∨
    (o.code ∈ [0x20, 0x21, 0x31] ∧ fb ≠ 0) ∨
    (o.code = 0x40 ∧ 4 ≤ fa.toNat) := by
  cases o <;> simp [Opcode.command, Instr.wellFormed, Opcode.format, Format.unusedZero, Opcode.code, -not_and,
    not_and_or, lastCsr_lt_iff]

end Sys2Proof

namespace Sys2Proof.Machine

/-- Settles O2: the encoded word passes the checks of its row and holds the operands in the row's fields. -/
theorem decodeInvertsEncode : Obligations.DecodeInvertsEncode := by
  intro i hwf
  obtain ⟨hop, hrsv, hunused, hi⟩ := Laws.EncodedFields.all i
  exact decode_eq_ok_iff.mpr ⟨⟨hop, hrsv, hunused, by rwa [hi]⟩, hi⟩

/-- Settles O3: a word that decodes is legal for the row of its command, and the encoder packs the row's fields again. -/
theorem encodeInvertsDecode : Obligations.EncodeInvertsDecode := by
  intro cmd i hd
  obtain ⟨hlegal, hi⟩ := decode_eq_ok_iff.mp hd
  rw [← hi]
  exact ⟨hlegal.wellFormed, hlegal.encode_command⟩

/-- Settles O4: mask and match ask for a legal word of the row, which the decoder asks for too, and an opcode has one row. -/
theorem commandIsMaskAndMatch : Obligations.CommandIsMaskAndMatch := by
  refine ⟨fun cmd o => ?_, fun cmd i hd => ?_, fun cmd o o' h h' => ?_⟩
  · rw [Opcode.and_maskWord_eq_matchWord_iff, decode_eq_ok_iff, o.opcode_command, and_iff_left rfl]
  · exact Opcode.and_maskWord_eq_matchWord_iff.mpr (isLegal_of_decode_eq_ok hd).1
  · have hop := (Opcode.and_maskWord_eq_matchWord_iff.mp h).op
    have hop' := (Opcode.and_maskWord_eq_matchWord_iff.mp h').op
    exact Opcode.code_injective (hop.symm.trans hop')

/-- Settles O5: a word with an opcode of the map is illegal on the grounds of its row, any other word on ground (a), and the
step of an illegal word in a running engine is its fault entry. -/
theorem illegalWordRaisesIllegalCmd : Obligations.IllegalWordRaisesIllegalCmd := by
  refine ⟨fun cmd => ?_, fun s cmd rest e hrun hhost hd => ?_, ⟨.unknownOpcode, by decide⟩, ⟨.unknownOpcode, by decide⟩⟩
  · by_cases hmem : opField cmd ∈ Opcode.all.map Opcode.code
    · obtain ⟨o, hop⟩ := Opcode.mem_codes_iff.mp hmem
      rw [decode_eq_error_iff_of_opField hop, o.illegal_operands_iff, ← hop]
      exact (or_iff_right (not_not.mpr hmem)).symm
    · refine iff_of_true (decode_eq_error_iff.mpr fun o hlegal => ?_) (.inl hmem)
      exact hmem (Opcode.mem_codes_iff.mpr ⟨o, hlegal.op⟩)
  · rw [step_illegal hhost hd, illegal_running (s := s.withHost rest) cmd hrun]
    rfl

end Sys2Proof.Machine
end

section
/-! SUPPORT. The tables of the field (40_gf_tables.md): EXP holds the powers of ALPHA, LOG is its inverse, and GFEXP and GFLOG
answer from them. -/

namespace Sys2Proof.Machine

/-! ### EXP

Two facts are read off the tables entry by entry: each entry of EXP is xtime of the one before, and LOG holds the index of
each entry. The rest follows, for every exponent and every byte. -/

/-- The last entry, 8E, is followed by the first again. -/
theorem alphaPow_succ_of_lt : ∀ i < 255, alphaPow (i + 1) = xtime (alphaPow i) := by
  decide +kernel

theorem gfLog_alphaPow_of_lt : ∀ i < 255, gfLog (alphaPow i) = some (BitVec.ofNat 8 i) := by
  decide +kernel

@[simp] theorem alphaPow_zero : alphaPow 0 = 0x01 := rfl

theorem alphaPow_succ (e : Nat) : alphaPow (e + 1) = xtime (alphaPow e) := by
  rw [← alphaPow_mod (e + 1), ← Nat.mod_add_mod, alphaPow_mod, alphaPow_succ_of_lt _ (Nat.mod_lt e (by decide)),
    alphaPow_mod]

theorem alphaPow_add_period (e : Nat) : alphaPow (e + 255) = alphaPow e := by
  rw [← alphaPow_mod, Nat.add_mod_right, alphaPow_mod]

/-- R52: EXP is the table of the powers of ALPHA, multiplication by x from 01 on. -/
theorem alphaPow_eq_iterate_xtime (e : Nat) : alphaPow e = xtime^[e] 0x01 := by
  induction e with
  | zero => rfl
  | succ e ih => rw [alphaPow_succ, ih, Function.iterate_succ_apply']

/-! ### LOG -/

/-- LOG reads back the exponent of a power, reduced modulo 255. -/
theorem gfLog_alphaPow (e : Nat) : gfLog (alphaPow e) = some (BitVec.ofNat 8 (e % 255)) := by
  rw [← alphaPow_mod, gfLog_alphaPow_of_lt _ (Nat.mod_lt e (by decide))]

theorem toNat_eq_of_gfLog_alphaPow {i : Nat} {l : Byte} (hi : i < 255) (hl : gfLog (alphaPow i) = some l) :
    l.toNat = i := by
  obtain rfl : BitVec.ofNat 8 i = l := by simpa [gfLog_alphaPow_of_lt i hi] using hl
  rw [BitVec.toNat_ofNat, Nat.mod_eq_of_lt (by omega)]

/-- A power has a logarithm, and 00 has none. -/
theorem alphaPow_ne_zero (e : Nat) : alphaPow e ≠ 0 := by
  rw [ne_eq, ← gfLog_eq_none_iff, gfLog_alphaPow]
  exact Option.some_ne_none _

/-- Two entries of EXP with the same logarithm have the same index. -/
theorem alphaPow_inj_of_lt {i j : Nat} (hi : i < 255) (hj : j < 255) (h : alphaPow i = alphaPow j) : i = j := by
  have hl := gfLog_alphaPow_of_lt i hi
  rw [← toNat_eq_of_gfLog_alphaPow hi hl, toNat_eq_of_gfLog_alphaPow hj (h ▸ hl)]

/-- Every nonzero byte is an entry of EXP: the 255 entries are distinct and not 00, and there are 255 nonzero bytes. -/
theorem exists_alphaPow_eq {a : Byte} (ha : a ≠ 0) : ∃ i < 255, alphaPow i = a := by
  have hpos {b : Byte} (hb : b ≠ 0) : b.toNat ∈ Finset.Ico 1 256 :=
    Finset.mem_Ico.mpr ⟨Nat.pos_of_ne_zero (BitVec.toNat_ne.mp hb), b.isLt⟩
  have hsurj := Finset.surjOn_of_injOn_of_card_le (s := Finset.range 255) (fun i => (alphaPow i).toNat)
    (fun i _ => hpos (alphaPow_ne_zero i))
    (fun i hi j hj h => alphaPow_inj_of_lt (by simpa using hi) (by simpa using hj) (BitVec.eq_of_toNat_eq h)) (by simp)
  obtain ⟨i, hi, h⟩ := hsurj (hpos ha)
  exact ⟨i, by simpa using hi, BitVec.eq_of_toNat_eq h⟩

/-- R53: a nonzero byte has a logarithm, which is the index of its entry of EXP. -/
theorem exists_gfLog {a : Byte} (ha : a ≠ 0) : ∃ l, gfLog a = some l ∧ l.toNat < 255 ∧ alphaPow l.toNat = a := by
  obtain ⟨i, hi, rfl⟩ := exists_alphaPow_eq ha
  have hl := gfLog_alphaPow_of_lt i hi
  exact ⟨_, hl, by simp only [toNat_eq_of_gfLog_alphaPow hi hl, hi, and_self]⟩

/-! ### The statements about the tables -/

/-- Settles O18: the recurrence is read off the table, LOG tells the entries apart, and 255 distinct entries that are not 00
are all the nonzero bytes. -/
theorem expTableIsPowersOfAlpha : Obligations.ExpTableIsPowersOfAlpha := by
  refine ⟨alphaPow_zero, alphaPow_succ, fun _ _ => alphaPow_inj_of_lt, fun a => ⟨exists_alphaPow_eq, ?_⟩,
    alphaPow_add_period⟩
  rintro ⟨i, _, rfl⟩
  exact alphaPow_ne_zero i

/-- Settles O19: a nonzero byte is the entry of EXP at its logarithm, and no second entry equals it. -/
theorem logIsInverseOfExp : Obligations.LogIsInverseOfExp := by
  refine ⟨fun a ha => ?_, gfLog_zero, rfl, rfl, fun i hi => ?_⟩
  · obtain ⟨l, hl, hlt, hpow⟩ := exists_gfLog ha
    exact ⟨l, hl, hlt, hpow, fun i hi hpow' => alphaPow_inj_of_lt hi hlt (hpow'.trans hpow.symm)⟩
  · have hl := gfLog_alphaPow_of_lt i hi
    exact ⟨_, hl, toNat_eq_of_gfLog_alphaPow hi hl⟩

/-! ### The commands -/

/-- A word of the row `o` with the reserved field or a field its format does not use set takes Fault(ILLEGAL_CMD): grounds (b)
and (c) of R45. -/
theorem illegalWhen_of_mustBeZero {o : Opcode} {bad : Word → Prop}
    (hbad : ∀ cmd, bad cmd → rsvField cmd ≠ 0 ∨ o.format.unusedZero (faField cmd) (fbField cmd) (wField cmd) ≠ true) :
    IllegalWhen o bad := by
  intro s cmd rest hrun hhost hop hcmd
  obtain ⟨_, hstep, _⟩ := illegalWordRaisesIllegalCmd
  obtain ⟨e, hd⟩ := (decode_eq_error_iff_of_opField hop).mpr ((hbad cmd hcmd).imp_right fun hunused h => hunused h.1)
  exact hstep s cmd rest e hrun hhost hd

/-- The must-be-zero fields of a command with the one operand `fa` (R42). -/
theorem illegalWhen_of_format_a {o : Opcode} (ho : o.format = .a) :
    IllegalWhen o fun cmd => fbField cmd ≠ 0 ∨ rsvField cmd ≠ 0 ∨ wField cmd ≠ 0 := by
  refine illegalWhen_of_mustBeZero fun cmd hcmd => ?_
  simp only [ho, Format.unusedZero, ne_eq, decide_eq_true_eq, not_and_or]
  exact or_left_comm.mp hcmd

/-- Settles O24: GFEXP reads EXP at `i mod 255`, which is 01 multiplied i times by x. -/
theorem gfexpRespondsPower : Obligations.GfexpRespondsPower := by
  refine ⟨fun s e hrun => ?_, illegalWhen_of_format_a rfl⟩
  rw [execGfexp_running e hrun, alphaPow_eq_iterate_xtime]
  rfl

/-- Settles O25: GFLOG reads LOG, which has the index of `a` in EXP for `a` not 00, and no entry at 00. -/
theorem gflogRespondsLogarithm : Obligations.GflogRespondsLogarithm := by
  refine ⟨fun s a hrun ha => ?_, fun s hrun => execGflog_undefined hrun gfLog_zero, illegalWhen_of_format_a rfl⟩
  obtain ⟨l, hl, hlt, hpow⟩ := exists_gfLog ha
  exact ⟨l, execGflog_running hrun hl, Nat.le_of_lt_succ hlt, alphaPow_eq_iterate_xtime _ ▸ hpow⟩

/-- Settles O1: the decoder evaluated on the thirteen words. -/
theorem specWordsDecode : Obligations.SpecWordsDecode := by
  unfold Obligations.SpecWordsDecode
  decide

end Sys2Proof.Machine
end

section
/-! SUPPORT. The multiplier and the divider (41_gf_arith.md): the laws of the field, the shift-and-add product, and what GFMUL
and GFDIV answer. Both units add or subtract exponents, so the laws of products and quotients are facts about exponents; the
laws of sums hold because multiplication by x is additive. -/

namespace Sys2Proof.Machine

/-! ### Products and quotients of powers -/

/-- A byte is 00 or a power of ALPHA. -/
theorem eq_zero_or_eq_alphaPow (a : Byte) : a = 0 ∨ ∃ i, a = alphaPow i := by
  refine or_iff_not_imp_left.mpr fun ha => ?_
  obtain ⟨i, _, rfl⟩ := exists_alphaPow_eq ha
  exact ⟨i, rfl⟩

theorem toNat_ofNat_mod_period (e : Nat) : (BitVec.ofNat 8 (e % 255)).toNat = e % 255 := by
  rw [BitVec.toNat_ofNat]
  omega

theorem gfMul_alphaPow (i j : Nat) : gfMul (alphaPow i) (alphaPow j) = alphaPow (i + j) := by
  rw [gfMul_of_log (gfLog_alphaPow i) (gfLog_alphaPow j), toNat_ofNat_mod_period, toNat_ofNat_mod_period,
    ← Nat.add_mod, alphaPow_mod]

theorem gfDiv_alphaPow_add (i j : Nat) : gfDiv (alphaPow (i + j)) (alphaPow j) = some (alphaPow i) := by
  rw [gfDiv_of_log (gfLog_alphaPow (i + j)) (gfLog_alphaPow j), toNat_ofNat_mod_period, toNat_ofNat_mod_period,
    show ((i + j) % 255 + 255 - j % 255) % 255 = i % 255 by omega, alphaPow_mod]

theorem gfDiv_zero_alphaPow (j : Nat) : gfDiv 0 (alphaPow j) = some 0 := by
  simp only [gfDiv, gfDivBy, gfLog_alphaPow, gfLog_zero, Option.map_some]

/-! ### The laws of the product -/

theorem gfMul_comm (a b : Byte) : gfMul a b = gfMul b a := by
  obtain rfl | ⟨i, rfl⟩ := eq_zero_or_eq_alphaPow a
  · rw [gfMul_zero_left, gfMul_zero_right]
  obtain rfl | ⟨j, rfl⟩ := eq_zero_or_eq_alphaPow b
  · rw [gfMul_zero_left, gfMul_zero_right]
  rw [gfMul_alphaPow, gfMul_alphaPow, Nat.add_comm]

theorem gfMul_assoc (a b c : Byte) : gfMul (gfMul a b) c = gfMul a (gfMul b c) := by
  obtain rfl | ⟨i, rfl⟩ := eq_zero_or_eq_alphaPow a
  · simp only [gfMul_zero_left]
  obtain rfl | ⟨j, rfl⟩ := eq_zero_or_eq_alphaPow b
  · simp only [gfMul_zero_left, gfMul_zero_right]
  obtain rfl | ⟨k, rfl⟩ := eq_zero_or_eq_alphaPow c
  · simp only [gfMul_zero_right]
  simp only [gfMul_alphaPow, Nat.add_assoc]

theorem gfMul_one_right (a : Byte) : gfMul a 0x01 = a := by
  obtain rfl | ⟨i, rfl⟩ := eq_zero_or_eq_alphaPow a
  · exact gfMul_zero_left 0x01
  · rw [← alphaPow_zero, gfMul_alphaPow, Nat.add_zero]

theorem gfMul_one_left (a : Byte) : gfMul 0x01 a = a := by
  rw [gfMul_comm, gfMul_one_right]

/-- A product of two powers is a power, which is not 00. -/
theorem eq_zero_or_eq_zero_of_gfMul_eq_zero {a b : Byte} (h : gfMul a b = 0) : a = 0 ∨ b = 0 := by
  obtain ha | ⟨i, rfl⟩ := eq_zero_or_eq_alphaPow a
  · exact .inl ha
  obtain hb | ⟨j, rfl⟩ := eq_zero_or_eq_alphaPow b
  · exact .inr hb
  exact absurd (gfMul_alphaPow i j ▸ h) (alphaPow_ne_zero (i + j))

/-! ### The laws of the quotient -/

/-- Division undoes multiplication. -/
theorem gfDiv_gfMul (a : Byte) {b : Byte} (hb : b ≠ 0) : gfDiv (gfMul a b) b = some a := by
  obtain ⟨j, _, rfl⟩ := exists_alphaPow_eq hb
  obtain rfl | ⟨i, rfl⟩ := eq_zero_or_eq_alphaPow a
  · exact gfDiv_zero_alphaPow j
  · rw [gfMul_alphaPow, gfDiv_alphaPow_add]

/-- Every byte is a multiple of every nonzero byte: the inverse of ALPHA to the `j` is ALPHA to the `254 * j`. -/
theorem exists_gfMul_eq (a : Byte) {b : Byte} (hb : b ≠ 0) : ∃ q, gfMul q b = a := by
  obtain ⟨j, _, rfl⟩ := exists_alphaPow_eq hb
  refine ⟨gfMul a (alphaPow (254 * j)), ?_⟩
  rw [gfMul_assoc, gfMul_alphaPow, ← alphaPow_mod, show (254 * j + j) % 255 = 0 by omega, alphaPow_zero, gfMul_one_right]

/-- R58: the divider answers the one quotient. -/
theorem gfDiv_eq_some_iff {a b q : Byte} (hb : b ≠ 0) : gfDiv a b = some q ↔ gfMul q b = a := by
  obtain ⟨q', rfl⟩ := exists_gfMul_eq a hb
  rw [gfDiv_gfMul q' hb, Option.some_inj]
  constructor
  · rintro rfl
    rfl
  · intro h
    exact Option.some_inj.mp (by rw [← gfDiv_gfMul q' hb, ← h, gfDiv_gfMul q hb])

theorem exists_gfDiv_eq_some (a : Byte) {b : Byte} (hb : b ≠ 0) : ∃ q, gfDiv a b = some q := by
  obtain ⟨q, hq⟩ := exists_gfMul_eq a hb
  exact ⟨q, (gfDiv_eq_some_iff hb).mpr hq⟩

theorem ne_zero_of_gfDiv_eq_some {a b q : Byte} (h : gfDiv a b = some q) : b ≠ 0 := by
  rintro rfl
  exact Option.some_ne_none q (h.symm.trans (gfDiv_zero a))

/-! ### Additive maps

The product is additive in each operand, with exclusive-or as the addition, and so is the shift-and-add product. -/

/-- `f` maps a sum in GF(256) to the sum of the images. -/
def IsAdditive (f : Byte → Byte) : Prop := ∀ a b, f (a ^^^ b) = f a ^^^ f b

theorem IsAdditive.map_zero {f : Byte → Byte} (h : IsAdditive f) : f 0 = 0 := by
  simpa using h 0 0

theorem IsAdditive.map_xorSum {f : Byte → Byte} (h : IsAdditive f) (n : Nat) (e : Nat → Byte) :
    f (xorSum n e) = xorSum n fun i => f (e i) := by
  induction n with
  | zero => exact h.map_zero
  | succ n ih => rw [xorSum_succ, xorSum_succ, h, ih]

theorem isAdditive_xtime : IsAdditive xtime := by
  intro a b
  have hbit : (if (a ^^^ b).msb then poly.setWidth 8 else 0) =
      (if a.msb then poly.setWidth 8 else 0) ^^^ (if b.msb then poly.setWidth 8 else 0) := by
    rw [BitVec.msb_xor]
    cases a.msb <;> cases b.msb <;> rfl
  simp only [xtime, hbit, BitVec.shiftLeft_xor_distrib]
  ac_rfl

theorem IsAdditive.iterate {f : Byte → Byte} (h : IsAdditive f) (n : Nat) : IsAdditive f^[n] := by
  induction n with
  | zero => exact fun _ _ => rfl
  | succ n ih =>
    intro a b
    simp only [Function.iterate_succ_apply', ih a b, h _ _]

/-- The product with ALPHA to the `i` is multiplication by x, `i` times. -/
theorem gfMul_alphaPow_left (i : Nat) (b : Byte) : gfMul (alphaPow i) b = xtime^[i] b := by
  obtain rfl | ⟨j, rfl⟩ := eq_zero_or_eq_alphaPow b
  · rw [gfMul_zero_right, (isAdditive_xtime.iterate i).map_zero]
  · rw [gfMul_alphaPow, alphaPow_eq_iterate_xtime, alphaPow_eq_iterate_xtime, Function.iterate_add_apply]

/-- R60: the product distributes over exclusive-or. -/
theorem isAdditive_gfMul_left (a : Byte) : IsAdditive (gfMul a) := by
  obtain rfl | ⟨i, rfl⟩ := eq_zero_or_eq_alphaPow a
  · intro b b'
    simp only [gfMul_zero_left, BitVec.xor_self]
    rfl
  · simpa only [funext (gfMul_alphaPow_left i)] using isAdditive_xtime.iterate i

theorem isAdditive_gfMul_right (b : Byte) : IsAdditive (gfMul · b) := by
  simpa only [funext (gfMul_comm b)] using isAdditive_gfMul_left b

/-- The first eight powers of ALPHA are the eight bits of a byte. -/
theorem xorSum_bits : ∀ a : Byte, (xorSum 8 fun i => if a.getLsbD i then alphaPow i else 0) = a := by
  decide +kernel

/-- An additive map is given by its values at the eight bits of a byte. -/
theorem IsAdditive.eq_of_eq_on_bits {f g : Byte → Byte} (hf : IsAdditive f) (hg : IsAdditive g)
    (h : ∀ i < 8, f (alphaPow i) = g (alphaPow i)) (a : Byte) : f a = g a := by
  rw [← xorSum_bits a, hf.map_xorSum, hg.map_xorSum]
  refine xorSum_congr fun i hi => ?_
  split
  · exact h i hi
  · rw [hf.map_zero, hg.map_zero]

/-! ### Shift-and-add multiplication -/

/-- The carry-less product of R59, before the reduction. -/
def carrylessProduct (a b : Byte) : BitVec 15 :=
  (List.range 8).foldl (fun r i => if b.getLsbD i then r ^^^ (a.setWidth 15 <<< i) else r) 0

/-- The reduction of R59 modulo POLY: bits 14 down to 8 are cleared. -/
def reduceModPoly (product : BitVec 15) : Byte :=
  ([14, 13, 12, 11, 10, 9, 8].foldl
    (fun r i => if r.getLsbD i then r ^^^ (poly.setWidth 15 <<< (i - 8)) else r) product).setWidth 8

theorem clmul_eq (a b : Byte) : clmul a b = reduceModPoly (carrylessProduct a b) := rfl

/-- Adding the same term to two accumulators, each when its own bit is set. -/
theorem ite_xor_xor_ite_xor (p p' : Bool) (r r' t : BitVec 15) :
    (if p then r ^^^ t else r) ^^^ (if p' then r' ^^^ t else r') = if p ^^ p' then (r ^^^ r') ^^^ t else r ^^^ r' := by
  cases p <;> cases p'
  · rfl
  · exact (BitVec.xor_assoc r r' t).symm
  · change r ^^^ t ^^^ r' = r ^^^ r' ^^^ t
    ac_rfl
  · calc r ^^^ t ^^^ (r' ^^^ t)
      _ = r ^^^ r' ^^^ (t ^^^ t) := by ac_rfl
      _ = r ^^^ r' := by rw [BitVec.xor_self, BitVec.xor_zero]

theorem carrylessProduct_xor_left (a a' b : Byte) :
    carrylessProduct (a ^^^ a') b = carrylessProduct a b ^^^ carrylessProduct a' b := by
  refine List.foldl_hom₂ (List.range 8) (fun r r' : BitVec 15 => r ^^^ r') _ _ _ 0 0 fun r r' i => ?_
  cases b.getLsbD i
  · rfl
  · simp only [if_true, BitVec.setWidth_xor, BitVec.shiftLeft_xor_distrib]
    ac_rfl

theorem carrylessProduct_xor_right (a b b' : Byte) :
    carrylessProduct a (b ^^^ b') = carrylessProduct a b ^^^ carrylessProduct a b' := by
  refine List.foldl_hom₂ (List.range 8) (fun r r' : BitVec 15 => r ^^^ r') _ _ _ 0 0 fun r r' i => ?_
  rw [BitVec.getLsbD_xor]
  exact ite_xor_xor_ite_xor (b.getLsbD i) (b'.getLsbD i) r r' _

theorem reduceModPoly_xor (r r' : BitVec 15) : reduceModPoly (r ^^^ r') = reduceModPoly r ^^^ reduceModPoly r' := by
  rw [reduceModPoly, reduceModPoly, reduceModPoly, ← BitVec.setWidth_xor]
  refine congrArg _ (List.foldl_hom₂ _ (· ^^^ ·) _ _ _ r r' fun r r' i => ?_)
  rw [BitVec.getLsbD_xor]
  exact ite_xor_xor_ite_xor (r.getLsbD i) (r'.getLsbD i) r r' _

theorem isAdditive_clmul_left (a : Byte) : IsAdditive (clmul a) := by
  intro b b'
  simp only [clmul_eq, carrylessProduct_xor_right, reduceModPoly_xor]

theorem isAdditive_clmul_right (b : Byte) : IsAdditive (clmul · b) := by
  intro a a'
  simp only [clmul_eq, carrylessProduct_xor_left, reduceModPoly_xor]

theorem gfMul_eq_clmul_on_bits : ∀ i < 8, ∀ j < 8, gfMul (alphaPow i) (alphaPow j) = clmul (alphaPow i) (alphaPow j) := by
  decide +kernel

/-! ### The statements about the field -/

/-- Settles O20: both products are additive in each operand, and they agree on the 64 pairs of single bits. -/
theorem multiplierIsShiftAndAdd : Obligations.MultiplierIsShiftAndAdd := by
  intro a b
  refine (isAdditive_gfMul_right b).eq_of_eq_on_bits (isAdditive_clmul_right b) (fun i hi => ?_) a
  exact (isAdditive_gfMul_left _).eq_of_eq_on_bits (isAdditive_clmul_left _) (gfMul_eq_clmul_on_bits i hi) b

/-- Settles O21: the laws of product and quotient from the sums of exponents, distributivity from the additivity of xtime. -/
theorem fieldLaws : Obligations.FieldLaws := by
  refine ⟨fun a b => exists_gfDiv_eq_some a, gfMul_comm, gfMul_assoc, gfMul_one_right, gfMul_zero_right,
    isAdditive_gfMul_left, fun a b => eq_zero_or_eq_zero_of_gfMul_eq_zero, fun a b => gfDiv_gfMul a, fun a b q h => ?_,
    fun a => ?_, fun a ha => ?_, fun a => BitVec.xor_self⟩
  · exact (gfDiv_eq_some_iff (ne_zero_of_gfDiv_eq_some h)).mp h
  · exact (gfDiv_eq_some_iff (by decide)).mpr (gfMul_one_right a)
  · exact (gfDiv_eq_some_iff ha).mpr (gfMul_one_left a)

/-! ### The commands -/

/-- The must-be-zero fields of a command with the two operands `fa` and `fb` (R42). -/
theorem illegalWhen_of_format_ab {o : Opcode} (ho : o.format = .ab) :
    IllegalWhen o fun cmd => rsvField cmd ≠ 0 ∨ wField cmd ≠ 0 := by
  refine illegalWhen_of_mustBeZero fun cmd hcmd => ?_
  simpa only [ho, Format.unusedZero, ne_eq, decide_eq_true_eq] using hcmd

/-- Settles O22: GFMUL responds with the product of the tables, which is the shift-and-add product. -/
theorem gfmulRespondsProduct : Obligations.GfmulRespondsProduct := by
  refine ⟨fun s a b hrun => ?_, illegalWhen_of_format_ab rfl⟩
  rw [execGfmul_running a b hrun, multiplierIsShiftAndAdd]
  rfl

/-- Settles O23: for `b` not 00 the divider has a quotient, which is the only one, and for 00 it has none. -/
theorem gfdivRespondsQuotient : Obligations.GfdivRespondsQuotient := by
  refine ⟨fun s a b hrun hb => ?_, fun s a hrun => execGfdiv_undefined hrun (gfDiv_zero a), illegalWhen_of_format_ab rfl⟩
  obtain ⟨q, hq⟩ := exists_gfDiv_eq_some a hb
  refine ⟨q, execGfdiv_running hrun hq, (gfDiv_eq_some_iff hb).mp hq, fun q' hq' => ?_⟩
  exact Option.some_inj.mp (((gfDiv_eq_some_iff hb).mpr hq').symm.trans hq)

end Sys2Proof.Machine
end

section
/-! SUPPORT. The commands of the coding context (42_context.md): what CTXNEW and CTXREL write and when they are illegal. -/

namespace Sys2Proof.Machine

/-- The must-be-zero fields of a command without operands (R42). -/
theorem illegalWhen_of_format_z {o : Opcode} (ho : o.format = .z) :
    IllegalWhen o fun cmd => faField cmd ≠ 0 ∨ fbField cmd ≠ 0 ∨ rsvField cmd ≠ 0 ∨ wField cmd ≠ 0 := by
  refine illegalWhen_of_mustBeZero fun cmd hcmd => ?_
  simp only [ho, Format.unusedZero, ne_eq, decide_eq_true_eq, not_and_or]
  tauto

/-- Settles O26: the guard of ConfigurationError is the negation of the bounds on k and k + p. -/
theorem ctxnewCreatesContext : Obligations.CtxnewCreatesContext := by
  refine ⟨fun s k p hrun hk hn => ?_, fun s k p hrun hbad => ?_, illegalWhen_of_format_ab rfl⟩
  · have hlegal : ¬ (k.toNat < 1 ∨ nMax < k.toNat + p.toNat) := not_or.mpr ⟨hk.not_gt, hn.not_gt⟩
    exact (execCtxnew_running k p hrun).trans (congrArg _ (if_neg hlegal))
  · exact (execCtxnew_running k p hrun).trans (congrArg _ (if_pos hbad))

/-- Settles O27: CTXREL writes the context registers and the response, whatever they held. -/
theorem ctxrelReleasesContext : Obligations.CtxrelReleasesContext :=
  ⟨fun _ hrun => ⟨_, execCtxrel_running hrun, rfl⟩, illegalWhen_of_format_z rfl⟩

end Sys2Proof.Machine
end

section
/-! SUPPORT. GF(256) as a field of Mathlib, and matrices of bytes as matrices over it: what is invertible there has an inverse
of bytes. -/

namespace Sys2Proof.Machine

open Matrix

/-! ### The field -/

/-- The inverse of `a` under the product, by the divider, with 00 for 00. -/
def gfInv (a : Byte) : Byte := (gfDiv 0x01 a).getD 0x00

theorem gfMul_gfInv {a : Byte} (ha : a ≠ 0) : gfMul a (gfInv a) = 0x01 := by
  obtain ⟨q, hq⟩ := exists_gfDiv_eq_some 0x01 ha
  rw [gfInv, hq, Option.getD_some, gfMul_comm]
  exact (gfDiv_eq_some_iff ha).mp hq

/-- GF(256) in the sense of Mathlib: the laws of R60. A byte is its own negative. -/
abbrev gfField : Field Byte :=
  @Field.ofMinimalAxioms Byte ⟨fun a b => a ^^^ b⟩ ⟨gfMul⟩ ⟨id⟩ ⟨gfInv⟩ ⟨0x00⟩ ⟨0x01⟩
    BitVec.xor_assoc (fun _ => BitVec.zero_xor) (fun _ => BitVec.xor_self) gfMul_assoc gfMul_comm gfMul_one_left
    (fun _ => gfMul_gfInv) rfl isAdditive_gfMul_left ⟨0x00, 0x01, by decide⟩

/-- A reading of the bytes as the elements of a field `F`, exclusive-or as its sum and `gfMul` as its product. `F` is kept
apart from `Byte`, whose own sum and product are those modulo 256. -/
structure GfIso (F : Type) [Field F] where
  val : Byte ≃ F
  val_xor (a b : Byte) : val (a ^^^ b) = val a + val b
  val_gfMul (a b : Byte) : val (gfMul a b) = val a * val b

theorem exists_gfIso : ∃ (F : Type) (_ : Field F), Nonempty (GfIso F) :=
  ⟨Byte, gfField, ⟨@GfIso.mk Byte gfField (Equiv.refl Byte) (fun _ _ => rfl) (fun _ _ => rfl)⟩⟩

/-- The square n x n matrices given by `f` and `g` satisfy `f * g = I_n` (R14). -/
def IsRightInverse (n : Nat) (f g : Nat → Nat → Byte) : Prop :=
  ∀ r c, r < n → c < n → (xorSum n fun t => gfMul (f r t) (g t c)) = if r = c then 0x01 else 0x00

namespace GfIso

variable {F : Type} [Field F] (φ : GfIso F) {n : Nat}

@[simp] theorem val_zero : φ.val 0 = 0 := by
  have h := φ.val_xor 0 0
  exact left_eq_add.mp h

theorem val_ne_zero {a : Byte} (h : a ≠ 0) : φ.val a ≠ 0 := φ.val_zero ▸ φ.val.injective.ne h

@[simp] theorem val_one : φ.val 0x01 = 1 := by
  have hne : φ.val 0x01 ≠ 0 := φ.val_ne_zero (by decide)
  have h := φ.val_gfMul 0x01 0x01
  rwa [gfMul_one_left, left_eq_mul₀ hne] at h

theorem val_ite_one (p : Prop) [Decidable p] : φ.val (if p then 0x01 else 0x00) = if p then 1 else 0 := by
  rw [apply_ite φ.val, φ.val_one, φ.val_zero]

theorem val_xorSum (n : Nat) (e : Nat → Byte) : φ.val (xorSum n e) = ∑ t : Fin n, φ.val (e t) := by
  induction n with
  | zero => exact φ.val_zero
  | succ n ih => rw [xorSum_succ, φ.val_xor, ih, Fin.sum_univ_castSucc]; rfl

theorem val_alphaPow_mul (a t : Nat) : φ.val (alphaPow (a * t)) = φ.val (alphaPow a) ^ t := by
  induction t with
  | zero => rw [Nat.mul_zero, alphaPow_zero, φ.val_one, pow_zero]
  | succ t ih => rw [Nat.mul_succ, ← gfMul_alphaPow, φ.val_gfMul, ih, pow_succ]

/-! ### Matrices -/

/-- The n x n matrix with the entries `f r c`. -/
def matrix (n : Nat) (f : Nat → Nat → Byte) : Matrix (Fin n) (Fin n) F := .of fun r c => φ.val (f r c)

@[simp] theorem matrix_apply (f : Nat → Nat → Byte) (r c : Fin n) : φ.matrix n f r c = φ.val (f r c) := rfl

theorem matrix_eq_matrix_iff {f g : Nat → Nat → Byte} :
    φ.matrix n f = φ.matrix n g ↔ ∀ r c, r < n → c < n → f r c = g r c := by
  simp only [← Matrix.ext_iff, matrix_apply, φ.val.apply_eq_iff_eq, Fin.forall_iff]
  exact forall_congr' fun r => forall_comm

theorem matrix_mul (f g : Nat → Nat → Byte) :
    φ.matrix n f * φ.matrix n g = φ.matrix n fun r c => xorSum n fun t => gfMul (f r t) (g t c) := by
  ext r c
  simp only [mul_apply, matrix_apply, val_xorSum, val_gfMul]

theorem matrix_identity : φ.matrix n (fun r c => if r = c then 0x01 else 0x00) = 1 := by
  ext r c
  simp only [matrix_apply, val_ite_one, one_apply, Fin.ext_iff]

theorem isRightInverse_iff {f g : Nat → Nat → Byte} :
    IsRightInverse n f g ↔ φ.matrix n f * φ.matrix n g = 1 := by
  rw [matrix_mul, ← matrix_identity, matrix_eq_matrix_iff, IsRightInverse]

/-- Every matrix over the field is a matrix of bytes. -/
theorem exists_matrix_eq (m : Matrix (Fin n) (Fin n) F) : ∃ f, φ.matrix n f = m := by
  refine ⟨fun r c => if h : r < n ∧ c < n then φ.val.symm (m ⟨r, h.1⟩ ⟨c, h.2⟩) else 0x00, ?_⟩
  ext r c
  rw [matrix_apply, dif_pos ⟨r.isLt, c.isLt⟩, Equiv.apply_symm_apply]

theorem isUnit_matrix_iff {f : Nat → Nat → Byte} : IsUnit (φ.matrix n f) ↔ ∃ g, IsRightInverse n f g := by
  constructor
  · intro h
    obtain ⟨m, hm⟩ := h.exists_right_inv
    obtain ⟨g, rfl⟩ := φ.exists_matrix_eq m
    exact ⟨g, φ.isRightInverse_iff.mpr hm⟩
  · rintro ⟨g, hg⟩
    exact .of_mul_eq_one _ (φ.isRightInverse_iff.mp hg)

end GfIso

/-! ### Inverses of matrices of bytes -/

section
variable {n : Nat} {f f' g g' : Nat → Nat → Byte}

/-- A right inverse of a square matrix is a left inverse. -/
theorem IsRightInverse.symm (h : IsRightInverse n f g) : IsRightInverse n g f := by
  obtain ⟨F, _, ⟨φ⟩⟩ := exists_gfIso
  rw [φ.isRightInverse_iff] at h ⊢
  exact mul_eq_one_comm.mp h

theorem IsRightInverse.unique (h : IsRightInverse n f g) (h' : IsRightInverse n f g') :
    ∀ r c, r < n → c < n → g' r c = g r c := by
  obtain ⟨F, _, ⟨φ⟩⟩ := exists_gfIso
  replace h := φ.isRightInverse_iff.mp h.symm
  rw [φ.isRightInverse_iff] at h'
  exact φ.matrix_eq_matrix_iff.mp (left_inv_eq_right_inv h h').symm

theorem IsRightInverse.congr_left (h : IsRightInverse n f g) (hf : ∀ r c, r < n → c < n → f' r c = f r c) :
    IsRightInverse n f' g := by
  intro r c hr hc
  rw [← h r c hr hc]
  exact xorSum_congr fun t ht => by rw [hf r t hr ht]

/-- A product of invertible matrices is invertible. -/
theorem IsRightInverse.exists_mul (h : IsRightInverse n f f') (h' : IsRightInverse n g g') :
    ∃ b, IsRightInverse n (fun r c => xorSum n fun t => gfMul (f r t) (g t c)) b := by
  obtain ⟨F, _, ⟨φ⟩⟩ := exists_gfIso
  rw [← φ.isUnit_matrix_iff, ← φ.matrix_mul]
  exact (φ.isUnit_matrix_iff.mpr ⟨f', h⟩).mul (φ.isUnit_matrix_iff.mpr ⟨g', h'⟩)

/-- The Vandermonde matrix on any distinct points EXP[x t] is invertible, its determinant being the product of the differences
of the points. -/
theorem exists_isRightInverse_vandermonde {x : Nat → Nat} (hx : ∀ t < n, x t < 255)
    (hinj : ∀ t < n, ∀ u < n, x t = x u → t = u) : ∃ g, IsRightInverse n (fun t c => alphaPow (x t * c)) g := by
  obtain ⟨F, _, ⟨φ⟩⟩ := exists_gfIso
  have hv : φ.matrix n (fun t c => alphaPow (x t * c)) = Matrix.vandermonde fun t : Fin n => φ.val (alphaPow (x t)) := by
    ext t c
    rw [φ.matrix_apply, φ.val_alphaPow_mul, vandermonde_apply]
  rw [← φ.isUnit_matrix_iff, hv, isUnit_iff_isUnit_det, isUnit_iff_ne_zero, det_vandermonde_ne_zero_iff]
  intro t u htu
  have hpoint := alphaPow_inj_of_lt (hx t t.isLt) (hx u u.isLt) (φ.val.injective htu)
  exact Fin.ext (hinj t t.isLt u u.isLt hpoint)

end

end Sys2Proof.Machine
end

section
/-! SUPPORT. The inversion engine (R86, R87): each row operation is the product with an invertible matrix, so the elimination of
an invertible matrix finds every pivot, and what it returns is the inverse. -/

namespace Sys2Proof.Machine

open Matrix

variable {n c r : Nat} {a : GfMatrix}

/-! ### The pivot and the divider -/

theorem findPivot_eq_some (h : findPivot n a c = some r) : c ≤ r ∧ r < n ∧ entry a r c ≠ 0x00 := by
  have hmem := List.mem_range'_1.mp (List.mem_of_find?_eq_some h)
  have hne := List.find?_some h
  exact ⟨hmem.1, by omega, of_decide_eq_true hne⟩

theorem findPivot_eq_none (h : findPivot n a c = none) (hcr : c ≤ r) (hr : r < n) : entry a r c = 0x00 := by
  have hzero := List.find?_eq_none.mp h r (List.mem_range'_1.mpr ⟨hcr, by omega⟩)
  simpa using hzero

theorem exists_gfDivBy {b : Byte} (hb : b ≠ 0) : ∃ quotient, gfDivBy b = some quotient := by
  obtain ⟨l, hl⟩ := gfLog_isSome hb
  exact ⟨_, by rw [gfDivBy, hl]⟩

section
variable {b : Byte} {quotient : Byte → Byte}

theorem gfDiv_of_gfDivBy (h : gfDivBy b = some quotient) (x : Byte) :
    gfDiv x b = some (quotient x) := by
  rw [gfDiv, h, Option.map_some]

theorem ne_zero_of_gfDivBy (h : gfDivBy b = some quotient) : b ≠ 0 :=
  ne_zero_of_gfDiv_eq_some (gfDiv_of_gfDivBy h 0)

theorem gfMul_of_gfDivBy (h : gfDivBy b = some quotient) (x : Byte) : gfMul (quotient x) b = x :=
  (gfDiv_eq_some_iff (ne_zero_of_gfDivBy h)).mp (gfDiv_of_gfDivBy h x)

theorem gfDivBy_zero (h : gfDivBy b = some quotient) : quotient 0 = 0 :=
  (eq_zero_or_eq_zero_of_gfMul_eq_zero (gfMul_of_gfDivBy h 0)).resolve_right (ne_zero_of_gfDivBy h)

theorem gfDivBy_self (h : gfDivBy b = some quotient) : quotient b = 0x01 := by
  rw [← Option.some_inj, ← gfDiv_of_gfDivBy h b, gfDiv_eq_some_iff (ne_zero_of_gfDivBy h), gfMul_one_left]

end

/-! ### The row operations as products -/

section
variable {F : Type} [Field F] {φ : GfIso F}

/-- `op` is the product with one invertible matrix on the left. -/
def IsRowOperation (φ : GfIso F) (n : Nat) (op : GfMatrix → GfMatrix) : Prop :=
  ∃ e : Matrix (Fin n) (Fin n) F, IsUnit e ∧ ∀ x, φ.matrix n (entry (op x)) = e * φ.matrix n (entry x)

theorem IsRowOperation.comp {op op' : GfMatrix → GfMatrix} (h' : IsRowOperation φ n op') (h : IsRowOperation φ n op) :
    IsRowOperation φ n fun x => op' (op x) := by
  obtain ⟨e, he, heq⟩ := h
  obtain ⟨e', he', heq'⟩ := h'
  exact ⟨e' * e, he'.mul he, fun x => by rw [heq', heq, Matrix.mul_assoc]⟩

theorem isRowOperation_swapRows (hc : c < n) (hr : r < n) : IsRowOperation φ n (swapRows n c r) := by
  refine ⟨swap F ⟨c, hc⟩ ⟨r, hr⟩, .of_mul_eq_one _ (swap_mul_self _ _), fun x => ?_⟩
  ext i t
  rw [φ.matrix_apply, swapRows, entry_buildMatrix _ i.isLt t.isLt]
  by_cases hic : i = ⟨c, hc⟩
  · rw [hic, if_pos rfl, swap_mul_apply_left, φ.matrix_apply]
  by_cases hir : i = ⟨r, hr⟩
  · rw [if_neg (Fin.val_ne_of_ne hic), hir, if_pos rfl, swap_mul_apply_right, φ.matrix_apply]
  · rw [if_neg (Fin.val_ne_of_ne hic), if_neg (Fin.val_ne_of_ne hir), swap_mul_of_ne hic hir, φ.matrix_apply]

/-- The divider set to `b` is the product with the inverse of `b`. -/
theorem GfIso.val_gfDivBy (φ : GfIso F) {b : Byte} {quotient : Byte → Byte} (h : gfDivBy b = some quotient) (x : Byte) :
    φ.val (quotient x) = (φ.val b)⁻¹ * φ.val x := by
  rw [eq_inv_mul_iff_mul_eq₀ (φ.val_ne_zero (ne_zero_of_gfDivBy h)), ← φ.val_gfMul, gfMul_comm, gfMul_of_gfDivBy h]

theorem isRowOperation_scaleRow (hc : c < n) {b : Byte} {quotient : Byte → Byte} (h : gfDivBy b = some quotient) :
    IsRowOperation φ n (scaleRow n c quotient) := by
  have hne : (φ.val b)⁻¹ ≠ 0 := inv_ne_zero (φ.val_ne_zero (ne_zero_of_gfDivBy h))
  refine ⟨diagonal (Function.update 1 ⟨c, hc⟩ (φ.val b)⁻¹), ?_, fun x => ?_⟩
  · rw [isUnit_diagonal, Pi.isUnit_iff]
    intro i
    by_cases hic : i = ⟨c, hc⟩
    · rw [hic, Function.update_self]
      exact isUnit_iff_ne_zero.mpr hne
    · rw [Function.update_of_ne hic]
      exact isUnit_one
  · ext i t
    rw [φ.matrix_apply, scaleRow, entry_buildMatrix _ i.isLt t.isLt, diagonal_mul, φ.matrix_apply]
    by_cases hic : i = ⟨c, hc⟩
    · rw [hic, if_pos rfl, Function.update_self, φ.val_gfDivBy h]
    · rw [if_neg (Fin.val_ne_of_ne hic), Function.update_of_ne hic, Pi.one_apply, one_mul]

/-- The matrix that adds `f i` times row `c` to row `i`. -/
def addRow (c : Fin n) (f : Fin n → F) : Matrix (Fin n) (Fin n) F := 1 + vecMulVec f (Pi.single c 1)

theorem addRow_mul_apply (c : Fin n) (f : Fin n → F) (m : Matrix (Fin n) (Fin n) F) (i t : Fin n) :
    (addRow c f * m) i t = m i t + f i * m c t := by
  rw [addRow, Matrix.add_mul, Matrix.one_mul, vecMulVec_mul, single_one_vecMul]
  rfl

/-- Where row `c` is left alone, subtracting what was added gives the matrix back. -/
theorem isUnit_addRow {c : Fin n} {f : Fin n → F} (hf : f c = 0) : IsUnit (addRow c f) := by
  refine .of_mul_eq_one (addRow c (-f)) ?_
  ext i t
  rw [addRow_mul_apply, ← Matrix.mul_one (addRow c (-f)), addRow_mul_apply, addRow_mul_apply, Pi.neg_apply, Pi.neg_apply,
    hf, neg_zero, zero_mul, add_zero, neg_mul, neg_add_cancel_right]

theorem isRowOperation_clearColumn (hc : c < n) (f : Nat → Byte) : IsRowOperation φ n (clearColumn n c f) := by
  refine ⟨addRow ⟨c, hc⟩ (Function.update (fun i => φ.val (f i)) ⟨c, hc⟩ 0), isUnit_addRow (Function.update_self ..),
    fun x => ?_⟩
  ext i t
  rw [φ.matrix_apply, clearColumn, entry_buildMatrix _ i.isLt t.isLt, addRow_mul_apply, φ.matrix_apply, φ.matrix_apply]
  by_cases hic : i = ⟨c, hc⟩
  · rw [hic, if_pos (.inl rfl), Function.update_self, zero_mul, add_zero]
  rw [Function.update_of_ne hic]
  by_cases hf : f i = 0x00
  · rw [if_pos (.inr hf), hf, φ.val_zero, zero_mul, add_zero]
  · rw [if_neg (not_or.mpr ⟨Fin.val_ne_of_ne hic, hf⟩), φ.val_xor, φ.val_gfMul]

end

/-! ### The columns that are done -/

/-- The columns below `c` are those of the identity. -/
def IsReduced (n c : Nat) (a : GfMatrix) : Prop :=
  ∀ i t, i < n → t < c → entry a i t = if i = t then 0x01 else 0x00

theorem IsReduced.swapRows (h : IsReduced n c a) (hcr : c ≤ r) (hr : r < n) : IsReduced n c (swapRows n c r a) := by
  intro i t hi ht
  rw [Machine.swapRows, entry_buildMatrix _ hi (by omega)]
  split
  · rw [h r t hr ht, if_neg (by omega), if_neg (by omega)]
  split
  · rw [h c t (by omega) ht, if_neg (by omega), if_neg (by omega)]
  · exact h i t hi ht

theorem IsReduced.scaleRow (h : IsReduced n c a) (hc : c < n) {quotient : Byte → Byte} (hq : quotient 0 = 0) :
    IsReduced n c (scaleRow n c quotient a) := by
  intro i t hi ht
  rw [Machine.scaleRow, entry_buildMatrix _ hi (by omega)]
  split
  · rw [h c t hc ht, if_neg (by omega), if_neg (by omega)]
    exact hq
  · exact h i t hi ht

/-- With 01 as the pivot one more column is done. -/
theorem IsReduced.clearColumn (h : IsReduced n c a) (hc : c < n) (hpivot : entry a c c = 0x01) :
    IsReduced n (c + 1) (clearColumn n c (fun i => entry a i c) a) := by
  intro i t hi ht
  rw [Machine.clearColumn, entry_buildMatrix _ hi (by omega)]
  obtain rfl | ht : t = c ∨ t < c := by omega
  · rw [hpivot, gfMul_one_right, BitVec.xor_self]
    by_cases hit : i = t
    · rw [if_pos (.inl hit), if_pos hit, hit, hpivot]
    · rw [if_neg hit]
      split
      next hskip => exact hskip.resolve_left hit
      next => rfl
  · have hzero : entry a c t = 0x00 := by rw [h c t hc ht, if_neg (by omega)]
    rw [hzero, gfMul_zero_right, h i t hi ht]
    exact (congrArg _ BitVec.xor_zero).trans (ite_self _)

section
variable {F : Type} [Field F]

/-- A matrix with the first columns of the identity, and zeros in column `c` from the diagonal down, maps column `c` to itself,
as it does the unit vector `c`. -/
theorem not_isUnit_of_no_pivot {m : Matrix (Fin n) (Fin n) F} {c : Fin n}
    (hdone : ∀ i, ∀ t < c, m i t = (1 : Matrix (Fin n) (Fin n) F) i t) (hzero : ∀ t, c ≤ t → m t c = 0) : ¬ IsUnit m := by
  intro hunit
  have hterm (i t : Fin n) : m i t * m t c = (1 : Matrix (Fin n) (Fin n) F) i t * m t c := by
    obtain ht | ht := lt_or_ge t c
    · rw [hdone i t ht]
    · rw [hzero t ht, mul_zero, mul_zero]
  have hfixed : m *ᵥ m.col c = m *ᵥ Pi.single c 1 := by
    calc m *ᵥ m.col c
      _ = 1 *ᵥ m.col c := funext fun i => Fintype.sum_congr _ _ (hterm i)
      _ = m.col c := one_mulVec _
      _ = m *ᵥ Pi.single c 1 := (mulVec_single_one m c).symm
  have hcol := congrFun (mulVec_injective_of_isUnit hunit hfixed) c
  rw [col_apply, hzero c le_rfl, Pi.single_eq_same] at hcol
  exact zero_ne_one hcol

theorem IsReduced.exists_findPivot (φ : GfIso F) (h : IsReduced n c a) (hc : c < n)
    (hunit : IsUnit (φ.matrix n (entry a))) : ∃ r, findPivot n a c = some r := by
  refine Option.ne_none_iff_exists'.mp fun hnone => not_isUnit_of_no_pivot (c := ⟨c, hc⟩) ?_ ?_ hunit
  · intro i t ht
    simp only [φ.matrix_apply, h i t i.isLt ht, φ.val_ite_one, one_apply, Fin.ext_iff]
  · intro t ht
    rw [φ.matrix_apply, findPivot_eq_none hnone ht t.isLt, φ.val_zero]

end

/-! ### One column -/

/-- The first two row operations on column `c`: the pivot row `r` comes to row `c` and is divided by the pivot. -/
def pivotRows (n c r : Nat) (quotient : Byte → Byte) (x : GfMatrix) : GfMatrix :=
  scaleRow n c quotient (swapRows n c r x)

section
variable {ab ab' : GfMatrix × GfMatrix}

theorem eliminateColumn_eq_some_iff : eliminateColumn n ab c = some ab' ↔ ∃ r, findPivot n ab.1 c = some r ∧
    ∃ quotient, gfDivBy (entry (swapRows n c r ab.1) c c) = some quotient ∧
      (clearColumn n c (fun i => entry (pivotRows n c r quotient ab.1) i c) (pivotRows n c r quotient ab.1),
        clearColumn n c (fun i => entry (pivotRows n c r quotient ab.1) i c) (pivotRows n c r quotient ab.2)) = ab' := by
  simp only [eliminateColumn, pivotRows, Option.bind_eq_bind, Option.bind_eq_some_iff, Option.pure_def, Option.some_inj]

theorem entry_swapRows_pivot (hc : c < n) : entry (swapRows n c r a) c c = entry a r c := by
  rw [swapRows, entry_buildMatrix _ hc hc, if_pos rfl]

/-- A pivot is not 00, so the divider is defined for it. -/
theorem exists_eliminateColumn (hc : c < n) (h : findPivot n ab.1 c = some r) : ∃ ab', eliminateColumn n ab c = some ab' := by
  obtain ⟨_, _, hne⟩ := findPivot_eq_some h
  obtain ⟨quotient, hq⟩ := exists_gfDivBy (entry_swapRows_pivot (r := r) hc ▸ hne)
  exact ⟨_, eliminateColumn_eq_some_iff.mpr ⟨r, h, quotient, hq, rfl⟩⟩

/-- One more column is done. -/
theorem IsReduced.eliminateColumn (hred : IsReduced n c ab.1) (hc : c < n) (h : eliminateColumn n ab c = some ab') :
    IsReduced n (c + 1) ab'.1 := by
  obtain ⟨r, hr, quotient, hq, rfl⟩ := eliminateColumn_eq_some_iff.mp h
  obtain ⟨hcr, hrn, _⟩ := findPivot_eq_some hr
  have hpivot : entry (pivotRows n c r quotient ab.1) c c = 0x01 := by
    rw [pivotRows, Machine.scaleRow, entry_buildMatrix _ hc hc, if_pos rfl, gfDivBy_self hq]
  exact ((hred.swapRows hcr hrn).scaleRow hc (gfDivBy_zero hq)).clearColumn hc hpivot

/-- Both matrices of the pair go through the same row operations. -/
theorem exists_isRowOperation_eliminateColumn {F : Type} [Field F] (φ : GfIso F) (hc : c < n)
    (h : eliminateColumn n ab c = some ab') : ∃ op, IsRowOperation φ n op ∧ op ab.1 = ab'.1 ∧ op ab.2 = ab'.2 := by
  obtain ⟨r, hr, quotient, hq, rfl⟩ := eliminateColumn_eq_some_iff.mp h
  obtain ⟨_, hrn, _⟩ := findPivot_eq_some hr
  have hpivot : IsRowOperation φ n (pivotRows n c r quotient) :=
    (isRowOperation_scaleRow hc hq).comp (isRowOperation_swapRows hc hrn)
  exact ⟨_, (isRowOperation_clearColumn hc _).comp hpivot, rfl, rfl⟩

end

/-! ### All columns -/

/-- What the elimination of `a` has reached before column `c`: the second matrix is the product of the row operations so far,
and the first is `a` after them, done in the columns below `c`. -/
structure Eliminated {F : Type} [Field F] (φ : GfIso F) (n : Nat) (a : GfMatrix) (c : Nat) (ab : GfMatrix × GfMatrix) :
    Prop where
  isUnit : IsUnit (φ.matrix n (entry ab.2))
  mul_eq : φ.matrix n (entry ab.2) * φ.matrix n (entry a) = φ.matrix n (entry ab.1)
  reduced : IsReduced n c ab.1

section
variable {F : Type} [Field F] {φ : GfIso F} {ab ab' : GfMatrix × GfMatrix}

theorem GfIso.matrix_identityMatrix (φ : GfIso F) : φ.matrix n (entry (identityMatrix n)) = 1 := by
  rw [← φ.matrix_identity, φ.matrix_eq_matrix_iff]
  exact fun r c => entry_identityMatrix

theorem Eliminated.start : Eliminated φ n a 0 (a, identityMatrix n) where
  isUnit := φ.matrix_identityMatrix ▸ isUnit_one
  mul_eq := by rw [φ.matrix_identityMatrix, Matrix.one_mul]
  reduced := fun _ _ _ ht => absurd ht (Nat.not_lt_zero _)

theorem Eliminated.eliminateColumn (h : Eliminated φ n a c ab) (hc : c < n)
    (hstep : eliminateColumn n ab c = some ab') : Eliminated φ n a (c + 1) ab' := by
  obtain ⟨op, ⟨e, he, hop⟩, hfst, hsnd⟩ := exists_isRowOperation_eliminateColumn φ hc hstep
  refine ⟨?_, ?_, h.reduced.eliminateColumn hc hstep⟩
  · rw [← hsnd, hop]
    exact he.mul h.isUnit
  · rw [← hsnd, ← hfst, hop, hop, Matrix.mul_assoc, h.mul_eq]

/-- The elimination of the first `c` columns. -/
def eliminateTo (n : Nat) (a : GfMatrix) (c : Nat) : Option (GfMatrix × GfMatrix) :=
  (List.range c).foldlM (Machine.eliminateColumn n) (a, identityMatrix n)

theorem eliminateTo_succ : eliminateTo n a (c + 1) = (eliminateTo n a c).bind fun ab => eliminateColumn n ab c := by
  rw [eliminateTo, List.range_succ, List.foldlM_append]
  simp [eliminateTo]

theorem eliminated_of_eliminateTo (hc : c ≤ n) (h : eliminateTo n a c = some ab) : Eliminated φ n a c ab := by
  induction c generalizing ab with
  | zero =>
    obtain rfl : (a, identityMatrix n) = ab := Option.some_inj.mp h
    exact .start
  | succ c ih =>
    rw [eliminateTo_succ] at h
    obtain ⟨ab₀, hab₀, hstep⟩ := Option.bind_eq_some_iff.mp h
    exact (ih (Nat.le_of_succ_le hc) hab₀).eliminateColumn hc hstep

/-- Row operations keep an invertible matrix invertible, so each column has a pivot. -/
theorem exists_eliminateTo (φ : GfIso F) (ha : IsUnit (φ.matrix n (entry a))) (hc : c ≤ n) :
    ∃ ab, eliminateTo n a c = some ab := by
  induction c with
  | zero => exact ⟨_, rfl⟩
  | succ c ih =>
    obtain ⟨ab, hab⟩ := ih (Nat.le_of_succ_le hc)
    have hel : Eliminated φ n a c ab := eliminated_of_eliminateTo (Nat.le_of_succ_le hc) hab
    obtain ⟨r, hr⟩ := hel.reduced.exists_findPivot φ hc (hel.mul_eq ▸ hel.isUnit.mul ha)
    obtain ⟨ab', hab'⟩ := exists_eliminateColumn hc hr
    exact ⟨ab', by rw [eliminateTo_succ, hab, Option.bind_some, hab']⟩

end

/-! ### The inverse -/

theorem inverse_eq : inverse n a = (eliminateTo n a n).map Prod.snd := rfl

/-- R86: what the elimination returns is a left inverse, so it is the inverse. -/
theorem isRightInverse_of_inverse {b : GfMatrix} (h : inverse n a = some b) : IsRightInverse n (entry a) (entry b) := by
  obtain ⟨F, _, ⟨φ⟩⟩ := exists_gfIso
  obtain ⟨ab, hab, rfl⟩ := Option.map_eq_some_iff.mp (inverse_eq ▸ h)
  have hel : Eliminated φ n a n ab := eliminated_of_eliminateTo le_rfl hab
  refine IsRightInverse.symm (φ.isRightInverse_iff.mpr ?_)
  rw [hel.mul_eq, ← φ.matrix_identity, φ.matrix_eq_matrix_iff]
  exact fun i t hi ht => hel.reduced i t hi ht

/-- R87: the elimination returns an inverse whenever there is one. -/
theorem exists_inverse {g : Nat → Nat → Byte} (h : IsRightInverse n (entry a) g) : ∃ b, inverse n a = some b := by
  obtain ⟨F, _, ⟨φ⟩⟩ := exists_gfIso
  obtain ⟨ab, hab⟩ := exists_eliminateTo φ (φ.isUnit_matrix_iff.mpr ⟨g, h⟩) le_rfl
  exact ⟨ab.2, by rw [inverse_eq, hab, Option.map_some]⟩

end Sys2Proof.Machine
end

section
/-! SUPPORT. The generating matrix (R66 to R70): V_top is invertible because its points are distinct, and so is every choice of
K rows of V, hence of GM. -/

namespace Sys2Proof.Machine

variable {k p : Nat}

/-- R68: the inverse of V_top exists, and the builder computes it. -/
theorem isRightInverse_vandermondeTopInverse (hk : k ≤ 255) :
    IsRightInverse k (fun r t => alphaPow (r * t)) (entry (vandermondeTopInverse k)) := by
  have hentry : ∀ r c, r < k → c < k → entry (vandermonde k k) r c = alphaPow (r * c) := fun r c => entry_vandermonde
  obtain ⟨g, hg⟩ := exists_isRightInverse_vandermonde (x := fun t => t) (fun t ht => ht.trans_le hk) fun t _ u _ h => h
  obtain ⟨w, hw⟩ := exists_inverse (hg.congr_left hentry)
  rw [vandermondeTopInverse, hw, Option.getD_some]
  exact (isRightInverse_of_inverse hw).congr_left fun r c hr hc => (hentry r c hr hc).symm

/-- R70: the matrix of any distinct rows of GM is the product of those rows of V, a Vandermonde matrix itself, with
inv(V_top). -/
theorem exists_isRightInverse_generatingMatrix_rows (hn : k + p ≤ 255) {row : Nat → Nat} (hrow : ∀ t < k, row t < k + p)
    (hinj : ∀ t < k, ∀ u < k, row t = row u → t = u) :
    ∃ b, IsRightInverse k (fun t u => entry (generatingMatrix k p) (row t) u) b := by
  obtain ⟨g, hg⟩ := exists_isRightInverse_vandermonde (fun t ht => (hrow t ht).trans_le hn) hinj
  have hinv := isRightInverse_vandermondeTopInverse (Nat.le_of_add_right_le hn)
  obtain ⟨b, hb⟩ := hg.exists_mul hinv.symm
  exact ⟨b, hb.congr_left fun t u ht hu => entry_generatingMatrix (hrow t ht) hu⟩

/-- Settles O28: W is what the elimination of V_top returns, and the entries of GM are its products with V. -/
theorem generatingMatrixIsVandermondeTimesInverse : Obligations.GeneratingMatrixIsVandermondeTimesInverse := by
  intro k p _ hn
  have hinv := isRightInverse_vandermondeTopInverse (Nat.le_of_add_right_le hn)
  exact ⟨entry (vandermondeTopInverse k), hinv, fun _ => hinv.unique, fun r c => entry_generatingMatrix⟩

/-- Settles O29: the first K rows of GM are V_top times its inverse, and a row of V does not depend on P. -/
theorem generatingMatrixIsSystematic : Obligations.GeneratingMatrixIsSystematic := by
  refine ⟨fun k p r c _ hn hr hc => ?_, fun k p p' r c _ _ _ hr hr' hc => ?_⟩
  · rw [entry_generatingMatrix (Nat.lt_add_right p hr) hc]
    exact isRightInverse_vandermondeTopInverse (Nat.le_of_add_right_le hn) r c hr hc
  · rw [entry_generatingMatrix hr hc, entry_generatingMatrix hr' hc]

/-- Settles O30: strictly rising rows are distinct, and a right inverse of a square matrix is a left inverse. -/
theorem anyKRowsAreInvertible : Obligations.AnyKRowsAreInvertible := by
  intro k p row _ hn hrow hmono
  have hinj : ∀ t < k, ∀ u < k, row t = row u → t = u := by
    intro t ht u hu h
    obtain hlt | heq | hlt := lt_trichotomy t u
    · exact absurd h (hmono t u hlt hu).ne
    · exact heq
    · exact absurd h (hmono u t hlt ht).ne'
  obtain ⟨b, hb⟩ := exists_isRightInverse_generatingMatrix_rows hn hrow hinj
  exact ⟨b, fun t c ht hc => ⟨hb t c ht hc, hb.symm t c ht hc⟩⟩

end Sys2Proof.Machine
end

section
/-! SUPPORT. The encoder (43_encode.md): what ENCODE leaves in each byte of shard memory, that running it again changes
nothing because it reads no row it writes, and what follows from parity being the product of GM with the data. -/

namespace Sys2Proof.Machine

variable {s t : State}

/-! ### Writing the same rows again -/

/-- Going through a list twice does what going through it once does, if the actions of its elements commute and each is
idempotent. -/
theorem foldl_foldl_same {α β : Type} {f : β → α → β} {l : List α}
    (hcomm : ∀ x ∈ l, ∀ y ∈ l, ∀ b, f (f b x) y = f (f b y) x) (hidem : ∀ x ∈ l, ∀ b, f (f b x) x = f b x) (b : β) :
    l.foldl f (l.foldl f b) = l.foldl f b := by
  induction l generalizing b with
  | nil => rfl
  | cons x l ih =>
    have hmem : ∀ y ∈ x :: (l ++ x :: l), y ∈ x :: l := by grind
    have ih := ih (fun y hy z hz => hcomm y (.tail x hy) z (.tail x hz)) fun y hy => hidem y (.tail x hy)
    calc (x :: l).foldl f ((x :: l).foldl f b)
      _ = (x :: (l ++ x :: l)).foldl f b := by rw [← List.foldl_append, List.cons_append]
      _ = (x :: x :: (l ++ l)).foldl f b :=
        (List.perm_middle.cons x).foldl_eq' (fun y hy z hz => hcomm y (hmem y hy) z (hmem z hz)) b
      _ = (l ++ l).foldl f (f b x) := by rw [List.foldl_cons, List.foldl_cons, hidem x List.mem_cons_self]
      _ = (x :: l).foldl f b := by rw [List.foldl_append, ih, List.foldl_cons]

/-- Writes to two places of a memory commute, whatever the memory's form: each stops before the head, at the head or goes
on into the rest. -/
theorem Memory.write_comm (m : Memory) {a b : Nat} (u v : Byte) (h : a ≠ b) :
    (m.write a u).write b v = (m.write b v).write a u := by
  induction m with
  | nil => grind [Memory.write]
  | cons x rest ih => grind [Memory.write]

/-- `SH[i][j] <- e(i, j)` for the place `x` = (i, j). -/
def Memory.writePlace (e : Nat → Nat → Byte) (m : Memory) (x : Nat × Nat) : Memory :=
  m.write (shardKey x.1 x.2) (e x.1 x.2)

/-- Writing rows is writing their places below the block size, one after the other. -/
theorem writeRows_sh_eq_foldl_writePlace (s : State) (rows : List Nat) (size : Nat) (e : Nat → Nat → Byte) :
    (s.writeRows rows size e).sh = (rows ×ˢ List.range size).foldl (Memory.writePlace e) s.sh := by
  simp only [writeRows_sh, SProd.sprod, List.product, List.foldl_flatMap, List.foldl_map]
  rfl

theorem Memory.writePlace_comm (e : Nat → Nat → Byte) (m : Memory) {x y : Nat × Nat} (hx : x.2 < 2 ^ 32)
    (hy : y.2 < 2 ^ 32) : (m.writePlace e x).writePlace e y = (m.writePlace e y).writePlace e x := by
  by_cases hxy : x = y
  · rw [hxy]
  · exact m.write_comm _ _ fun hkey => hxy (Prod.ext_iff.mpr ((shardKey_inj hx hy).mp hkey))

section
variable {rows : List Nat} {size : Nat} {e e' : Nat → Nat → Byte}

/-- Only the bytes of the written places count. -/
theorem writeRows_congr (s : State) (h : ∀ r ∈ rows, ∀ j < size, e' r j = e r j) :
    s.writeRows rows size e' = s.writeRows rows size e := by
  have hsh : (s.writeRows rows size e').sh = (s.writeRows rows size e).sh := by
    simp only [writeRows_sh_eq_foldl_writePlace]
    refine List.foldl_ext _ _ _ fun m x hx => ?_
    obtain ⟨hr, hj⟩ := List.mem_product.mp hx
    rw [Memory.writePlace, h _ hr _ (List.mem_range.mp hj), Memory.writePlace]
  exact congrArg (fun m => { s with sh := m }) hsh

/-- Writing the same rows again changes nothing, whatever the memory's form. -/
theorem writeRows_writeRows_same (s : State) (hs : size ≤ 2 ^ 32) :
    (s.writeRows rows size e).writeRows rows size e = s.writeRows rows size e := by
  have hplace : ∀ x ∈ rows ×ˢ List.range size, x.2 < 2 ^ 32 := fun x hx =>
    (List.mem_range.mp (List.mem_product.mp hx).2).trans_le hs
  have hsh : ((s.writeRows rows size e).writeRows rows size e).sh = (s.writeRows rows size e).sh := by
    simp only [writeRows_sh_eq_foldl_writePlace]
    exact foldl_foldl_same (fun x hx y hy m => m.writePlace_comm e (hplace x hx) (hplace y hy))
      (fun x _ m => m.write_write_same _ _ _) s.sh
  exact congrArg (fun m => { s with sh := m }) hsh

end

/-! ### What ENCODE leaves in shard memory -/

/-- The parity bytes of R77 in their places, below the block size. -/
def State.writeParity (s : State) (size : Word32) : State := s.writeRows s.parityRows size.toNat s.parityByte

@[simp] theorem writeParity_k (s : State) (size : Word32) : (s.writeParity size).k = s.k := rfl

@[simp] theorem writeParity_gm (s : State) (size : Word32) : (s.writeParity size).gm = s.gm := rfl

@[simp] theorem respond_writeParity (s : State) (v : Word) (size : Word32) :
    (s.respond v).writeParity size = (s.writeParity size).respond v := rfl

theorem shByte_writeParity (s : State) (size : Word32) (r : Nat) {j : Nat} (hj : j < 2 ^ 32) :
    (s.writeParity size).shByte r j =
      if s.k.toNat ≤ r ∧ r < s.n ∧ j < size.toNat then s.parityByte r j else s.shByte r j := by
  simp only [State.writeParity, shByte_writeRows s _ _ size.isLt.le hj, mem_parityRows, and_assoc]

/-- ENCODE leaves the data rows alone (R40). -/
theorem shByte_writeParity_data {size : Word32} {i j : Nat} (hi : i < s.k.toNat) (hj : j < 2 ^ 32) :
    (s.writeParity size).shByte i j = s.shByte i j := by
  rw [shByte_writeParity s size i hj, if_neg fun ⟨hk, _⟩ => hi.not_ge hk]

/-- A parity byte depends on the context and on the data bytes at its own offset only (R77, R78). -/
theorem parityByte_congr {s s' : State} {j : Nat} (hk : s'.k = s.k) (hgm : s'.gm = s.gm)
    (hdata : ∀ i, i < s.k.toNat → s'.shByte i j = s.shByte i j) (r : Nat) : s'.parityByte r j = s.parityByte r j := by
  rw [State.parityByte, State.parityByte, hk, hgm]
  exact xorSum_congr fun i hi => by rw [hdata i hi]

/-- ENCODE computes the same parity from what it leaves, which it writes where it stands already. -/
theorem writeParity_writeParity (s : State) (size : Word32) :
    (s.writeParity size).writeParity size = s.writeParity size := by
  have hparity : ∀ r ∈ s.parityRows, ∀ j < size.toNat, (s.writeParity size).parityByte r j = s.parityByte r j := by
    intro r _ j hj
    have hdata : ∀ i, i < s.k.toNat → (s.writeParity size).shByte i j = s.shByte i j := fun i hi =>
      shByte_writeParity_data hi (hj.trans size.isLt)
    exact parityByte_congr (writeParity_k s size) (writeParity_gm s size) hdata r
  calc (s.writeParity size).writeParity size
    _ = (s.writeParity size).writeRows s.parityRows size.toNat s.parityByte := writeRows_congr _ hparity
    _ = s.writeParity size := writeRows_writeRows_same s size.isLt.le

section
variable {cnt : Byte} {size : Word32} {i r j : Nat}

/-- ENCODE where its checks pass. -/
theorem execEncode_eq_writeParity (hrun : s.faulted = false) (hok : s.groupOperand cnt size = .ok size.toNat) :
    exec (.encode cnt size) s = .next ((s.writeParity size).respond 0) := by
  rw [execEncode_running cnt size hrun, hok, checked_ok, State.writeParity]

variable (hrun : s.faulted = false) (hok : s.groupOperand cnt size = .ok size.toNat)
  (h : exec (.encode cnt size) s = .next t)

include hrun hok h

theorem eq_of_execEncode : t = (s.writeParity size).respond 0 := by
  simpa [execEncode_eq_writeParity hrun hok] using h.symm

theorem parity_of_execEncode (hk : s.k.toNat ≤ r) (hn : r < s.n) (hj : j < size.toNat) :
    t.shByte r j = s.parityByte r j := by
  rw [eq_of_execEncode hrun hok h, shByte_respond, shByte_writeParity s size r (hj.trans size.isLt),
    if_pos ⟨hk, hn, hj⟩]

theorem data_of_execEncode (hi : i < s.k.toNat) (hj : j < size.toNat) : t.shByte i j = s.shByte i j := by
  rw [eq_of_execEncode hrun hok h, shByte_respond, shByte_writeParity_data hi (hj.trans size.isLt)]

end

/-- The must-be-zero fields of a command with the operands `fa` and `w` (R42). -/
theorem illegalWhen_of_format_aw {o : Opcode} (ho : o.format = .aw) :
    IllegalWhen o fun cmd => fbField cmd ≠ 0 ∨ rsvField cmd ≠ 0 := by
  refine illegalWhen_of_mustBeZero fun cmd hcmd => ?_
  simpa only [ho, Format.unusedZero, ne_eq, decide_eq_true_eq] using hcmd.symm

/-- Settles O32: where the checks pass ENCODE writes the parity rows and responds, and a failed check is a fault entry. -/
theorem encodeWritesParityRows : Obligations.EncodeWritesParityRows := by
  refine ⟨fun s cnt size hrun hctx hcnt hsize => ?_, fun s cnt size hrun => ?_, illegalWhen_of_format_aw rfl⟩
  · have hok := groupOperand_ok hctx hcnt hsize
    exact ⟨_, execEncode_eq_writeParity hrun hok, rfl, fun r j hj => shByte_writeParity s size r hj⟩
  · have hexec := execEncode_running cnt size hrun
    exact ⟨fun hctx => exec_eq_faultEntry hexec (groupOperand_noContext cnt size hctx),
      fun hctx hcnt => exec_eq_faultEntry hexec (groupOperand_badCount size hctx hcnt),
      fun hctx hcnt hsize => exec_eq_faultEntry hexec (groupOperand_badBlock hctx hcnt hsize)⟩

/-- Settles O33: the second ENCODE computes the same parity from data rows that the first left alone, and writes it where
it stands already. -/
theorem encodeTwiceEqualsOnce : Obligations.EncodeTwiceEqualsOnce := by
  intro s t cnt size _ h _
  refine exec_again (fun _ => execEncode_running cnt size) nofun (fun _ _ => rfl) (fun _ _ => rfl) (fun b hb => ?_) h
  obtain ⟨_, _, _, rfl⟩ := groupOperand_eq_ok hb
  change (((s.writeParity size).respond 0).writeParity size).respond 0 = (s.writeParity size).respond 0
  rw [respond_writeParity, writeParity_writeParity, respond_respond]

/-- Settles O35: ENCODE writes parity bytes, each a product of GM with the data bytes at its own offset. -/
theorem encodeOffsetsAreIndependentLanes : Obligations.EncodeOffsetsAreIndependentLanes := by
  intro s t s' t' cnt size size' j hrun hrun' hctx hctx' hk hp hgm hcnt hsize hsize' h h' hj hj' hdata r hr hn
  have hn' : s'.n = s.n := by rw [State.n, State.n, hk, hp]
  have ht := parity_of_execEncode hrun (groupOperand_ok hctx hcnt hsize) h hr hn hj
  have ht' := parity_of_execEncode hrun' (groupOperand_ok hctx' (hcnt.trans hn'.symm) hsize') h'
    (hk ▸ hr) (hn'.symm ▸ hn) hj'
  exact ⟨by rw [ht, ht', parityByte_congr hk hgm hdata], ht⟩

/-! ### Linearity and codewords -/

/-- The parity of a sum of data is the sum of the parities (R81). -/
theorem parityByte_xor {m' m'' : Memory} {j : Nat} (hdata : ∀ i, i < s.k.toNat →
      { s with sh := m'' }.shByte i j = s.shByte i j ^^^ { s with sh := m' }.shByte i j) (r : Nat) :
    { s with sh := m'' }.parityByte r j = s.parityByte r j ^^^ { s with sh := m' }.parityByte r j := by
  simp only [State.parityByte, ← xorSum_xor]
  exact xorSum_congr fun i hi => by rw [hdata i hi, isAdditive_gfMul_left]

/-- A sum all of whose terms but one are 0 is that term. -/
theorem xorSum_eq_single {n c : Nat} {e : Nat → Byte} (hc : c < n) (h : ∀ i < n, i ≠ c → e i = 0) :
    xorSum n e = e c := by
  induction n with
  | zero => omega
  | succ n ih =>
    rw [xorSum_succ]
    obtain rfl | hne := eq_or_ne c n
    · have hzero : xorSum c e = 0 :=
        (xorSum_congr fun i hi => h i (by omega) hi.ne).trans (xorSum_const_zero c)
      simp [hzero]
    · simp [ih (by omega) fun i hi => h i (by omega), h n (by omega) hne.symm]

/-- The product of a row with column `c` of the identity matrix is its entry `c`. -/
theorem xorSum_gfMul_unit {n c : Nat} (hc : c < n) (g : Nat → Byte) :
    (xorSum n fun i => gfMul (g i) (if i = c then 0x01 else 0x00)) = g c := by
  rw [xorSum_eq_single hc fun i _ hi => by rw [if_neg hi, gfMul_zero_right], if_pos rfl, gfMul_one_right]

/-- Settles O34: a parity byte is the product of a row of GM with the data bytes, which is additive, is 00 for data 00, and
is one entry of the row for unit data. -/
theorem encodeIsLinear : Obligations.EncodeIsLinear := by
  intro s t cnt size hrun hctx hcnt hsize h
  have hok := groupOperand_ok hctx hcnt hsize
  refine ⟨fun s' t' s'' t'' hs' hs'' h' h'' hdata r j hr hn hj => ?_, fun j hj hzero r hr hn => ?_,
    fun j c hj hc hunit r hr hn => ?_⟩
  · obtain ⟨m', rfl⟩ : ∃ m, s' = { s with sh := m } := ⟨_, hs'⟩
    obtain ⟨m'', rfl⟩ : ∃ m, s'' = { s with sh := m } := ⟨_, hs''⟩
    have hparity' := parity_of_execEncode (s := { s with sh := m' }) hrun hok h' hr hn hj
    have hparity'' := parity_of_execEncode (s := { s with sh := m'' }) hrun hok h'' hr hn hj
    rw [parity_of_execEncode hrun hok h hr hn hj, hparity', hparity'']
    exact parityByte_xor (fun i hi => hdata i j hi hj) r
  · rw [parity_of_execEncode hrun hok h hr hn hj, State.parityByte, ← xorSum_const_zero s.k.toNat]
    exact xorSum_congr fun i hi => by rw [hzero i hi, gfMul_zero_right]
  · rw [parity_of_execEncode hrun hok h hr hn hj, State.parityByte, ← xorSum_gfMul_unit hc (entry s.gm r)]
    exact xorSum_congr fun i hi => by rw [hunit i hi]

/-- The identity block of GM (R69) picks data row `r`. -/
theorem parityByte_of_data_row (hs : s.Inv) (hctx : s.ctxValid = true) {r : Nat} (hr : r < s.k.toNat) (j : Nat) :
    s.parityByte r j = s.shByte r j := by
  obtain ⟨hk, hn, hgm⟩ := hs.context.1 hctx
  obtain ⟨hidentity, _⟩ := generatingMatrixIsSystematic
  have hrow : ∀ i < s.k.toNat, entry s.gm r i = if i = r then 0x01 else 0x00 := fun i hi => by
    rw [hgm, hidentity _ _ _ _ hk hn hr hi]
    exact if_congr eq_comm rfl rfl
  rw [State.parityByte, ← xorSum_gfMul_unit hr (s.shByte · j)]
  exact xorSum_congr fun i hi => by rw [hrow i hi, gfMul_comm]

/-- Settles O36: ENCODE leaves the data rows, which are the identity block of GM times themselves, and writes the product of
GM with them to the parity rows. -/
theorem encodeGivesCodeword : Obligations.EncodeGivesCodeword := by
  intro s t cnt size hs hrun hctx hcnt hsize h r j hn hj
  have hok := groupOperand_ok hctx hcnt hsize
  have hdata : ∀ i, i < s.k.toNat → t.shByte i j = s.shByte i j := fun i hi => data_of_execEncode hrun hok h hi hj
  have hrow : t.shByte r j = s.parityByte r j := by
    obtain hr | hr := lt_or_ge r s.k.toNat
    · rw [hdata r hr, parityByte_of_data_row hs hctx hr]
    · exact parity_of_execEncode hrun hok h hr hn hj
  rw [hrow]
  exact xorSum_congr fun i hi => by rw [hdata i hi]

end Sys2Proof.Machine
end

section
/-! SUPPORT. The row selector and SUB (R84, R85): with at most P marks the selector finds K distinct rows of GM, so SUB is
invertible (R70), the search for a pivot succeeds, and Fault(INTERNAL_SINGULAR) is never raised (R88). -/

namespace Sys2Proof.Machine

variable {s t : State}

/-! ### The row selector -/

/-- The unmarked indices below N, ascending, of which the row selector takes the first K. -/
def State.unmarked (s : State) : List Nat := (List.range s.n).filter fun i => s.maskByte i = 0x00

theorem selected_eq_take (s : State) : s.selected = s.unmarked.take s.k.toNat := rfl

theorem mem_unmarked {i : Nat} : i ∈ s.unmarked ↔ i < s.n ∧ s.maskByte i = 0x00 := by
  simp [State.unmarked]

theorem unmarked_pairwise_lt (s : State) : s.unmarked.Pairwise (· < ·) := List.pairwise_lt_range.filter _

theorem selected_pairwise_lt (s : State) : s.selected.Pairwise (· < ·) := (unmarked_pairwise_lt s).take

/-- Every index below N is marked or unmarked. -/
theorem length_unmarked_add_missing (s : State) : s.unmarked.length + s.missing.length = s.n := by
  have hsplit := List.length_eq_length_filter_add (l := List.range s.n) fun i => s.maskByte i = 0x00
  simp only [List.length_range, ← decide_not] at hsplit
  exact hsplit.symm

theorem length_selected (h : s.missing.length ≤ s.p.toNat) : s.selected.length = s.k.toNat := by
  have hcount := length_unmarked_add_missing s
  simp only [State.n] at hcount
  rw [selected_eq_take, List.length_take]
  omega

theorem mem_selected {i : Nat} (h : i ∈ s.selected) : i < s.n ∧ s.maskByte i = 0x00 :=
  mem_unmarked.mp (List.mem_of_mem_take h)

/-- What the selector leaves of an ascending list lies above what it takes. -/
theorem lt_of_mem_selected {u i : Nat} (hu : u ∈ s.selected) (hi : i ∈ s.unmarked) (hnot : i ∉ s.selected) : u < i := by
  have hsplit := unmarked_pairwise_lt s
  rw [← List.take_append_drop s.k.toNat s.unmarked, List.pairwise_append] at hsplit
  rw [← List.take_append_drop s.k.toNat s.unmarked, List.mem_append] at hi
  obtain ⟨_, _, habove⟩ := hsplit
  exact habove u hu i (hi.resolve_left hnot)

/-- Settles O41: at most P of the N indices are marked, so at least K are not, and the selector takes the first K of them. -/
theorem rowSelectorTakesFirstUnmarked : Obligations.RowSelectorTakesFirstUnmarked := fun s hmarks =>
  ⟨length_selected hmarks, selected_pairwise_lt s, fun _ => mem_selected,
    fun _ hi hmask hnot _ hu => lt_of_mem_selected hu (mem_unmarked.mpr ⟨hi, hmask⟩) hnot⟩

/-! ### SUB -/

theorem getD_selected_mem (h : s.missing.length ≤ s.p.toNat) {u : Nat} (hu : u < s.k.toNat) :
    s.selected.getD u 0 ∈ s.selected := by
  have hlt : u < s.selected.length := length_selected h ▸ hu
  rw [List.getD_eq_getElem _ _ hlt]
  exact List.getElem_mem hlt

theorem getD_selected_inj (h : s.missing.length ≤ s.p.toNat) {u u' : Nat} (hu : u < s.k.toNat) (hu' : u' < s.k.toNat)
    (heq : s.selected.getD u 0 = s.selected.getD u' 0) : u = u' := by
  rw [← length_selected h] at hu hu'
  rw [List.getD_eq_getElem _ _ hu, List.getD_eq_getElem _ _ hu'] at heq
  exact (selected_pairwise_lt s).nodup.getElem_inj_iff.mp heq

theorem entry_subMatrix (s : State) {u c : Nat} (hu : u < s.k.toNat) (hc : c < s.k.toNat) :
    entry s.subMatrix u c = entry s.gm (s.selected.getD u 0) c :=
  entry_buildMatrix _ hu hc

/-- R88: SUB is made of K distinct rows of the generating matrix, so the elimination inverts it. -/
theorem exists_inverse_subMatrix (hs : s.Inv) (hctx : s.ctxValid = true) (hmarks : s.missing.length ≤ s.p.toNat) :
    ∃ inv, inverse s.k.toNat s.subMatrix = some inv := by
  obtain ⟨_, hn, hgm⟩ := hs.context.1 hctx
  obtain ⟨b, hb⟩ := exists_isRightInverse_generatingMatrix_rows hn
    (fun u hu => (mem_selected (getD_selected_mem hmarks hu)).1) fun u hu u' hu' => getD_selected_inj hmarks hu hu'
  exact exists_inverse (hb.congr_left fun u c hu hc => by rw [entry_subMatrix s hu hc, hgm])

/-! ### Fault(INTERNAL_SINGULAR) -/

/-- The cause 07 is that of INTERNAL_SINGULAR alone (R104). -/
theorem raiseFault_fcause_ne {c : FaultCause} (h : c ≠ .internalSingular) (cmd : Word) :
    (s.raiseFault c cmd).fcause ≠ 0x07 := by
  rw [raiseFault_fcause]
  cases c with
  | internalSingular => exact absurd rfl h
  | _ => decide

/-- The operand checks find other causes. -/
theorem groupOperand_ne_internalSingular (s : State) (cnt : Byte) (size : Word32) :
    s.groupOperand cnt size ≠ .error .internalSingular := by
  unfold State.groupOperand
  split_ifs <;> exact nofun

theorem shardOperand_ne_internalSingular (s : State) (i : Byte) (j : Word32) :
    s.shardOperand i j ≠ .error .internalSingular := by
  unfold State.shardOperand
  split_ifs <;> exact nofun

theorem maskOperand_ne_internalSingular (i : Byte) : maskOperand i ≠ .error .internalSingular := by
  unfold maskOperand
  split_ifs <;> exact nofun

/-- A checked command avoids the cause 07 if its checks and its effect do. -/
theorem checked_fcause_ne {α : Type} {cmd : Word} {operand : Except FaultCause α} {effect : α → State}
    (hoperand : operand ≠ .error .internalSingular) (heffect : ∀ x, operand = .ok x → (effect x).fcause ≠ 0x07) :
    (s.checked cmd operand effect).fcause ≠ 0x07 := by
  cases operand with
  | error c => exact raiseFault_fcause_ne (fun hc => hoperand (hc ▸ rfl)) cmd
  | ok x => exact heffect x rfl

section
variable (h : s.fcause ≠ 0x07)
include h

theorem illegal_fcause_ne (cmd : Word) : (s.illegal cmd).fcause ≠ 0x07 := by
  cases hf : s.faulted with
  | true => rwa [illegal_faulted cmd hf]
  | false =>
    rw [illegal_running cmd hf]
    exact raiseFault_fcause_ne (by decide) cmd

/-- RECON raises the cause 07 for a SUB without an inverse only. -/
theorem reconstruct_fcause_ne (hinv : s.missing.length ≤ s.p.toNat → ∃ inv, inverse s.k.toNat s.subMatrix = some inv)
    (cmd : Word) (b : Nat) : (s.reconstruct cmd b).fcause ≠ 0x07 := by
  obtain ⟨_, hr⟩ | ⟨_, _, hr⟩ | ⟨hmarks, _, hnone, _⟩ | ⟨_, _, _, _, hr⟩ := reconstruct_cases s cmd b
  · rwa [hr]
  · rwa [hr]
  · obtain ⟨inv, hsome⟩ := hinv hmarks
    exact absurd hsome (by simp [hnone])
  · rwa [hr]

/-- No command of a running engine that meets the invariant raises the cause 07. -/
theorem exec_running_fcause_ne (hs : s.Inv) (hrun : s.faulted = false) (i : Instr) :
    ∃ t, exec i s = .next t ∧ t.fcause ≠ 0x07 := by
  cases i with
  | gfmul a b => exact ⟨_, execGfmul_running a b hrun, h⟩
  | gfdiv a b =>
    cases hq : gfDiv a b with
    | none => exact ⟨_, execGfdiv_undefined hrun hq, raiseFault_fcause_ne (by decide) _⟩
    | some q => exact ⟨_, execGfdiv_running hrun hq, h⟩
  | gfexp e => exact ⟨_, execGfexp_running e hrun, h⟩
  | gflog a =>
    cases hl : gfLog a with
    | none => exact ⟨_, execGflog_undefined hrun hl, raiseFault_fcause_ne (by decide) _⟩
    | some l => exact ⟨_, execGflog_running hrun hl, h⟩
  | ctxnew k p =>
    refine ⟨_, execCtxnew_running k p hrun, ?_⟩
    split <;> exact h
  | ctxrel => exact ⟨_, execCtxrel_running hrun, h⟩
  | encode cnt size =>
    exact ⟨_, execEncode_running cnt size hrun,
      checked_fcause_ne (groupOperand_ne_internalSingular s cnt size) fun _ _ => h⟩
  | recon cnt size =>
    refine ⟨_, execRecon_running cnt size hrun,
      checked_fcause_ne (groupOperand_ne_internalSingular s cnt size) fun b hb => ?_⟩
    obtain ⟨hctx, _⟩ := groupOperand_eq_ok hb
    exact reconstruct_fcause_ne h (exists_inverse_subMatrix hs hctx) _ b
  | shwr i j v =>
    exact ⟨_, execShwr_running i j v hrun, checked_fcause_ne (shardOperand_ne_internalSingular s i j) fun _ _ => h⟩
  | shrd i j =>
    exact ⟨_, execShrd_running i j hrun, checked_fcause_ne (shardOperand_ne_internalSingular s i j) fun _ _ => h⟩
  | mkwr i v => exact ⟨_, execMkwr_running i v hrun, checked_fcause_ne (maskOperand_ne_internalSingular i) fun _ _ => h⟩
  | mkrd i => exact ⟨_, execMkrd_running i hrun, checked_fcause_ne (maskOperand_ne_internalSingular i) fun _ _ => h⟩
  | rdcsr n =>
    cases hv : s.csr n.toNat with
    | some v => exact ⟨_, execRdcsr_csr hv, h⟩
    | none => exact ⟨_, execRdcsr_noCsr hv, illegal_fcause_ne h _⟩

end

/-- Settles O43: any K distinct rows of GM are invertible (R70), and the one command that can raise the cause 07 does so only
where they are not; a running engine starts from FCAUSE = 00. -/
theorem reconNeverFindsSubmatrixSingular : Obligations.ReconNeverFindsSubmatrixSingular := by
  refine ⟨fun s => exists_inverse_subMatrix, fun s t hs hrun h => ?_⟩
  have hcause : s.fcause ≠ 0x07 := by
    rw [(hs.faults.1 hrun).1]
    decide
  obtain ⟨_, rfl⟩ | ⟨rest, _, rfl⟩ | ⟨cmd, rest, i, _, _, hexec⟩ | ⟨cmd, rest, e, _, _, rfl⟩ := step_cases h
  · exact hcause
  · rw [takeReset_fcause]
    decide
  · obtain ⟨u, hu, hne⟩ := exec_running_fcause_ne (s := s.withHost rest) hcause (hs.withHost rest) hrun i
    obtain rfl : u = t := by simpa [hu] using hexec
    exact hne
  · exact illegal_fcause_ne (s := s.withHost rest) hcause cmd

end Sys2Proof.Machine
end

section
/-! SUPPORT. The reconstructor (44_reconstruct.md): what RECON leaves in each byte of shard memory, that it depends on the
selected rows only, and that it gives back the rows of a codeword. -/

namespace Sys2Proof.Machine

variable {s s' t : State}

/-- Settles O42: what the elimination returns is the inverse, which is unique, and it returns one for an invertible matrix. -/
theorem inversionEngineGivesTheInverse : Obligations.InversionEngineGivesTheInverse := by
  refine ⟨fun n a b h => ?_, fun _ _ _ => exists_inverse⟩
  have hinv := isRightInverse_of_inverse h
  exact ⟨fun r c hr hc => ⟨hinv r c hr hc, hinv.symm r c hr hc⟩, fun _ => hinv.unique⟩

/-! ### The linear-combination evaluator -/

/-- The byte of R83 and R89: the coefficient row of the marked index `m`, times the selected rows at offset `j`. -/
def State.rebuiltByte (s : State) (inv : GfMatrix) (m j : Nat) : Byte :=
  xorSum s.k.toNat fun u =>
    gfMul (xorSum s.k.toNat fun c => gfMul (entry s.gm m c) (entry inv c u)) (s.shByte (s.selected.getD u 0) j)

theorem recoveredByte_coefficientRow (s : State) (inv : GfMatrix) (m j : Nat) :
    s.recoveredByte (s.coefficientRow inv m) j = s.rebuiltByte inv m j :=
  xorSum_congr fun u hu => by simp [State.coefficientRow, List.getD, hu]

/-- The bytes of R83 in the marked rows below N, below the block size. -/
def State.writeMarked (s : State) (inv : GfMatrix) (size : Word32) : State :=
  s.writeRows s.missing size.toNat fun m => s.recoveredByte (s.coefficientRow inv m)

theorem shByte_writeMarked (s : State) (inv : GfMatrix) (size : Word32) (m : Nat) {j : Nat} (hj : j < 2 ^ 32) :
    (s.writeMarked inv size).shByte m j =
      if m < s.n ∧ s.maskByte m ≠ 0x00 ∧ j < size.toNat then s.rebuiltByte inv m j else s.shByte m j := by
  simp only [State.writeMarked, shByte_writeRows s _ _ size.isLt.le hj, mem_missing, and_assoc,
    recoveredByte_coefficientRow]

theorem shByte_writeMarked_of_mem {inv : GfMatrix} {size : Word32} {m j : Nat} (hm : m ∈ s.missing)
    (hj : j < size.toNat) : (s.writeMarked inv size).shByte m j = s.rebuiltByte inv m j := by
  obtain ⟨hn, hmark⟩ := mem_missing.mp hm
  rw [shByte_writeMarked s inv size m (hj.trans size.isLt), if_pos ⟨hn, hmark, hj⟩]

/-! ### RECON where its operand checks pass -/

section
variable {cnt : Byte} {size : Word32}

/-- With at most P marks RECON writes the marked rows; with none it writes nothing (R92). -/
theorem reconstruct_eq_writeMarked {inv : GfMatrix} (cmd : Word) (hmarks : s.missing.length ≤ s.p.toNat)
    (hinv : inverse s.k.toNat s.subMatrix = some inv) :
    s.reconstruct cmd size.toNat = (s.writeMarked inv size).respond 0 := by
  obtain ⟨hmany, _⟩ | ⟨_, hnone, hr⟩ | ⟨_, _, hsingular, _⟩ | ⟨_, _, inv', hinv', hr⟩ :=
    reconstruct_cases s cmd size.toNat
  · exact absurd hmarks (Nat.not_le.mpr hmany)
  · rw [hr, State.writeMarked, hnone, writeRows_nil]
  · exact absurd hinv (by simp [hsingular])
  · obtain rfl : inv = inv' := by simpa [hinv] using hinv'
    exact hr

variable (hrun : s.faulted = false) (hctx : s.ctxValid = true) (hcnt : cnt.toNat = s.n)
  (hsize : size.toNat ≤ s.blockMax.toNat)
include hrun hctx hcnt hsize

theorem execRecon_eq_reconstruct :
    exec (.recon cnt size) s = .next (s.reconstruct (encode (.recon cnt size)) size.toNat) :=
  exec_eq_effect (execRecon_running cnt size hrun) (groupOperand_ok hctx hcnt hsize)

theorem execRecon_eq_writeMarked {inv : GfMatrix} (hmarks : s.missing.length ≤ s.p.toNat)
    (hinv : inverse s.k.toNat s.subMatrix = some inv) :
    exec (.recon cnt size) s = .next ((s.writeMarked inv size).respond 0) := by
  rw [execRecon_eq_reconstruct hrun hctx hcnt hsize, reconstruct_eq_writeMarked _ hmarks hinv]

theorem execRecon_tooManyMarks (hmany : s.p.toNat < s.missing.length) :
    exec (.recon cnt size) s = .next (s.respond 1) := by
  rw [execRecon_eq_reconstruct hrun hctx hcnt hsize, State.reconstruct, if_pos hmany]

end

/-- Settles O37: where the checks pass and SUB has an inverse RECON writes the marked rows and responds. -/
theorem reconRewritesMarkedRows : Obligations.ReconRewritesMarkedRows := by
  refine ⟨fun s cnt size inv hrun hctx hcnt hsize _ hmarks hinv => ?_, illegalWhen_of_format_aw rfl⟩
  exact ⟨_, execRecon_eq_writeMarked hrun hctx hcnt hsize hmarks hinv, rfl, fun m j => shByte_writeMarked s inv size m⟩

/-- Settles O38: SUB has an inverse in a state that meets the invariant. -/
theorem reconCompletesUpToPMarks : Obligations.ReconCompletesUpToPMarks := by
  intro s cnt size hs hrun hctx hcnt hsize _ hmarks
  obtain ⟨inv, hinv⟩ := exists_inverse_subMatrix hs hctx hmarks
  refine ⟨_, execRecon_eq_writeMarked hrun hctx hcnt hsize hmarks hinv, rfl, fun m j hj hout => ?_⟩
  rw [shByte_respond, shByte_writeMarked s inv size m hj, if_neg hout]

/-- Settles O39: no mark below N leaves MISS empty. -/
theorem reconWithoutMarksIsNoop : Obligations.ReconWithoutMarksIsNoop := by
  intro s cnt size hrun hctx hcnt hsize hmask
  have hnone : s.missing = [] := List.eq_nil_iff_forall_not_mem.mpr fun i hi => by
    obtain ⟨hn, hmark⟩ := mem_missing.mp hi
    exact hmark (hmask i hn)
  have hr : s.reconstruct (encode (.recon cnt size)) size.toNat = s.respond 0 := by simp [State.reconstruct, hnone]
  rw [execRecon_eq_reconstruct hrun hctx hcnt hsize, hr]
  rfl

/-- Settles O40: the count of marks is looked at first, and with P = 0 one mark is too many. -/
theorem reconWithTooManyMarksChangesNothing : Obligations.ReconWithTooManyMarksChangesNothing := by
  intro s cnt size hrun hctx hcnt hsize
  refine ⟨execRecon_tooManyMarks hrun hctx hcnt hsize, fun hp ⟨i, hi⟩ => ?_⟩
  have hpos : 0 < s.missing.length := List.length_pos_of_mem (mem_missing.mpr hi)
  exact execRecon_tooManyMarks hrun hctx hcnt hsize (by rwa [hp])

/-! ### Dependence on the selected rows -/

theorem n_congr (hk : s'.k = s.k) (hp : s'.p = s.p) : s'.n = s.n := by
  rw [State.n, State.n, hk, hp]

section
variable (hk : s'.k = s.k) (hp : s'.p = s.p)
  (hmask : ∀ i, i < s.n → (s'.maskByte i = 0x00 ↔ s.maskByte i = 0x00))
include hk hp hmask

/-- MISS and SEL depend on K, P and on which indices below N are marked only. -/
theorem missing_congr : s'.missing = s.missing := by
  rw [State.missing, State.missing, n_congr hk hp]
  exact List.filter_congr fun i hi => decide_eq_decide.mpr (not_congr (hmask i (List.mem_range.mp hi)))

theorem selected_congr : s'.selected = s.selected := by
  rw [State.selected, State.selected, n_congr hk hp, hk]
  exact congrArg _ (List.filter_congr fun i hi => decide_eq_decide.mpr (hmask i (List.mem_range.mp hi)))

end

theorem subMatrix_congr (hk : s'.k = s.k) (hgm : s'.gm = s.gm) (hsel : s'.selected = s.selected) :
    s'.subMatrix = s.subMatrix := by
  rw [State.subMatrix, State.subMatrix, hk, hgm, hsel]

/-- A rebuilt byte depends on the context and on the selected rows at its own offset only (R91). -/
theorem rebuiltByte_congr {j : Nat} (hk : s'.k = s.k) (hgm : s'.gm = s.gm) (hsel : s'.selected = s.selected)
    (hmarks : s.missing.length ≤ s.p.toNat) (hrows : ∀ i ∈ s.selected, s'.shByte i j = s.shByte i j) (inv : GfMatrix)
    (m : Nat) : s'.rebuiltByte inv m j = s.rebuiltByte inv m j := by
  rw [State.rebuiltByte, State.rebuiltByte, hk, hgm, hsel]
  exact xorSum_congr fun u hu => by rw [hrows _ (getD_selected_mem hmarks hu)]

/-- Settles O46: both engines find the same MISS, SEL and INV, and a rebuilt byte is made of the selected rows. -/
theorem reconDependsOnSelectedRowsOnly : Obligations.ReconDependsOnSelectedRowsOnly := by
  intro s s' cnt size hs hrun hrun' hctx hctx' hk hp hgm hblock hcnt hsize hmarks hmask hrows
  have hmiss := missing_congr hk hp hmask
  have hsel := selected_congr hk hp hmask
  obtain ⟨inv, hinv⟩ := exists_inverse_subMatrix hs hctx hmarks
  have hinv' : inverse s'.k.toNat s'.subMatrix = some inv := by rw [subMatrix_congr hk hgm hsel, hk, hinv]
  refine ⟨_, _, execRecon_eq_writeMarked hrun hctx hcnt hsize hmarks hinv,
    execRecon_eq_writeMarked hrun' hctx' (hcnt.trans (n_congr hk hp).symm) (hblock ▸ hsize) (by rwa [hmiss, hp]) hinv', rfl, rfl,
    fun m hm j hj => ?_⟩
  rw [shByte_respond, shByte_respond, shByte_writeMarked_of_mem hm hj, shByte_writeMarked_of_mem (hmiss ▸ hm) hj]
  exact rebuiltByte_congr hk hgm hsel hmarks (fun i hi => hrows i hi j hj) inv m

/-! ### Codewords -/

section
variable {n : Nat}

/-- A row times a matrix times a column is the same either way round. -/
theorem xorSum_gfMul_assoc (g v : Nat → Byte) (a : Nat → Nat → Byte) :
    (xorSum n fun u => gfMul (xorSum n fun c => gfMul (g c) (a c u)) (v u)) =
      xorSum n fun c => gfMul (g c) (xorSum n fun u => gfMul (a c u) (v u)) := by
  obtain ⟨F, _, ⟨φ⟩⟩ := exists_gfIso
  apply φ.val.injective
  simp only [φ.val_xorSum, φ.val_gfMul]
  exact (Matrix.dotProduct_mulVec (fun c : Fin n => φ.val (g c)) (φ.matrix n a) fun u => φ.val (v u)).symm

/-- The inverse of a matrix takes the product of the matrix with a column back to the column. -/
theorem IsRightInverse.xorSum_gfMul_mulVec {f g : Nat → Nat → Byte} (h : IsRightInverse n f g) (d : Nat → Byte) {c : Nat}
    (hc : c < n) : (xorSum n fun u => gfMul (g c u) (xorSum n fun t => gfMul (f u t) (d t))) = d c := by
  rw [← xorSum_gfMul_assoc, ← xorSum_gfMul_unit hc d]
  exact xorSum_congr fun t ht => by rw [h.symm c t hc ht, gfMul_comm, if_congr eq_comm rfl rfl]

end

/-- R90: where the selected rows are those of the codeword of `d` at offset `j`, so is every rebuilt row. -/
theorem rebuiltByte_of_codeword {inv : GfMatrix} (hinv : inverse s.k.toNat s.subMatrix = some inv) {j : Nat}
    {d : Nat → Byte} (hd : ∀ u, u < s.k.toNat → s.shByte (s.selected.getD u 0) j =
      xorSum s.k.toNat fun c => gfMul (entry s.gm (s.selected.getD u 0) c) (d c)) (m : Nat) :
    s.rebuiltByte inv m j = xorSum s.k.toNat fun c => gfMul (entry s.gm m c) (d c) := by
  have hsub : ∀ u, u < s.k.toNat → s.shByte (s.selected.getD u 0) j =
      xorSum s.k.toNat fun c => gfMul (entry s.subMatrix u c) (d c) := fun u hu =>
    (hd u hu).trans (xorSum_congr fun c hc => by rw [entry_subMatrix s hu hc])
  have hdata : ∀ c, c < s.k.toNat →
      (xorSum s.k.toNat fun u => gfMul (entry inv c u) (s.shByte (s.selected.getD u 0) j)) = d c := fun c hc =>
    (xorSum_congr fun u hu => by rw [hsub u hu]).trans ((isRightInverse_of_inverse hinv).xorSum_gfMul_mulVec d hc)
  rw [State.rebuiltByte, xorSum_gfMul_assoc]
  exact xorSum_congr fun c hc => by rw [hdata c hc]

/-- Settles O44: INV takes the selected rows back to the data, and GM takes the data to the marked rows. -/
theorem reconRecoversCodeword : Obligations.ReconRecoversCodeword := by
  intro s cnt size d hs hrun hctx hcnt hsize hmarks hd
  obtain ⟨inv, hinv⟩ := exists_inverse_subMatrix hs hctx hmarks
  refine ⟨_, execRecon_eq_writeMarked hrun hctx hcnt hsize hmarks hinv, rfl, fun m hm j hj => ?_⟩
  rw [shByte_respond, shByte_writeMarked_of_mem hm hj]
  exact rebuiltByte_of_codeword hinv (fun u hu => hd u j hu hj) m

/-- ENCODE leaves the context alone. -/
theorem execEncode_context {cnt : Byte} {size : Word32} (h : exec (.encode cnt size) s = .next t) :
    t.ctxValid = s.ctxValid ∧ t.k = s.k ∧ t.p = s.p ∧ t.gm = s.gm := by
  obtain hsame | ⟨_, ⟨_, _, hd⟩ | hd⟩ := (exec_effect h).context_eq
  · exact hsame
  · cases hd
  · cases hd

/-- Two engines that hold a legal context with the same K and P hold the same GM (R68). -/
theorem State.Inv.gm_congr (hs : s.Inv) (hs' : s'.Inv) (hctx : s.ctxValid = true) (hctx' : s'.ctxValid = true)
    (hk : s'.k = s.k) (hp : s'.p = s.p) : s'.gm = s.gm := by
  obtain ⟨_, _, hgm⟩ := hs.context.1 hctx
  obtain ⟨_, _, hgm'⟩ := hs'.context.1 hctx'
  rw [hgm, hgm', hk, hp]

/-- Settles O45: ENCODE leaves a codeword, RECON gives its marked rows back from the selected ones, which are unmarked, and
leaves the unmarked rows alone. -/
theorem encodeThenReconRestoresAllShards : Obligations.EncodeThenReconRestoresAllShards := by
  intro s t u cnt size hs hrun hctx hcnt hsize h hu hurun huctx huk hup husize hmarks hrows
  obtain ⟨_, hk, hp, _⟩ := execEncode_context h
  replace huk : u.k = s.k := huk.trans hk
  replace hup : u.p = s.p := hup.trans hp
  have hn := n_congr huk hup
  have hgm := hs.gm_congr hu hctx huctx huk hup
  have hcode : ∀ r j, r < u.n → j < size.toNat →
      t.shByte r j = xorSum u.k.toNat fun c => gfMul (entry u.gm r c) (t.shByte c j) := by
    rw [hn, huk, hgm]
    exact encodeGivesCodeword s t cnt size hs hrun hctx hcnt hsize h
  obtain ⟨inv, hinv⟩ := exists_inverse_subMatrix hu huctx hmarks
  refine ⟨_, execRecon_eq_writeMarked hurun huctx (hcnt.trans hn.symm) husize hmarks hinv, rfl, fun i j hi hj => ?_⟩
  rw [shByte_respond, shByte_writeMarked u inv size i (hj.trans size.isLt)]
  by_cases hmark : u.maskByte i = 0x00
  · rw [if_neg fun ⟨_, hne, _⟩ => hne hmark, hrows i j hi hmark hj]
  · rw [if_pos ⟨hi, hmark, hj⟩, hcode i j hi hj]
    refine rebuiltByte_of_codeword hinv (fun v hv => ?_) i
    obtain ⟨hin, hunmarked⟩ := mem_selected (getD_selected_mem hmarks hv)
    rw [hrows _ j hin hunmarked hj, hcode _ j hin hj]

end Sys2Proof.Machine
end

section
/-! SUPPORT. The host's access to the memories and the registers (45_host_access.md): what SHWR, SHRD, MKWR and MKRD do where
their operands are in range and where they are not, and the layout of the registers RDCSR reads. -/

namespace Sys2Proof.Machine

variable {s : State}

/-! ### Operands in range and out of range -/

theorem lt_nMax_of_le {i : Byte} (hi : i.toNat ≤ 254) : i.toNat < nMax := Nat.lt_succ_of_le hi

theorem not_lt_nMax_of_lt {i : Byte} (hi : 254 < i.toNat) : ¬ i.toNat < nMax := Nat.not_lt.mpr hi

section
variable {i : Byte} {j : Word32} {c : Instr} {effect : Nat × Nat → State}

/-- The faults of a command with the operands of SHWR and SHRD: BAD_INDEX, then BAD_BLOCK (R97, R98). -/
theorem exec_badIndex_of_shardOperand (hexec : exec c s = .next (s.checked (encode c) (s.shardOperand i j) effect))
    (hi : 254 < i.toNat) : exec c s = .next (s.faultEntry 0x06 (encode c)) :=
  exec_eq_faultEntry hexec (shardOperand_badIndex j (not_lt_nMax_of_lt hi))

theorem exec_badBlock_of_shardOperand (hexec : exec c s = .next (s.checked (encode c) (s.shardOperand i j) effect))
    (hi : i.toNat ≤ 254) (hj : s.blockMax.toNat ≤ j.toNat) : exec c s = .next (s.faultEntry 0x05 (encode c)) :=
  exec_eq_faultEntry hexec (shardOperand_badBlock (lt_nMax_of_le hi) hj.not_gt)

end

/-! ### Shard memory and mask memory -/

/-- Settles O47: where the checks pass SHWR writes its one place of shard space, and a failed check is a fault entry. -/
theorem shwrStoresOneByte : Obligations.ShwrStoresOneByte := by
  refine ⟨fun s i v j hrun hi hj => ?_, fun s i v j hrun => exec_badIndex_of_shardOperand (execShwr_running i j v hrun),
    fun s i v j hrun => exec_badBlock_of_shardOperand (execShwr_running i j v hrun),
    illegalWhen_of_mustBeZero fun _ => .inl⟩
  refine ⟨_, exec_eq_effect (execShwr_running i j v hrun) (shardOperand_ok (lt_nMax_of_le hi) hj), rfl,
    shByte_setShByte_same s _ _ v, fun i' j' hj' hother => ?_⟩
  exact shByte_setShByte_other s v j.isLt hj' hother

/-- Settles O48: where the checks pass SHRD responds with the byte of its place, and a failed check is a fault entry. -/
theorem shrdReadsOneByte : Obligations.ShrdReadsOneByte := by
  refine ⟨fun s i j hrun hi hj => ?_, fun s i j hrun => exec_badIndex_of_shardOperand (execShrd_running i j hrun),
    fun s i j hrun => exec_badBlock_of_shardOperand (execShrd_running i j hrun), illegalWhen_of_format_aw rfl⟩
  rw [exec_eq_effect (execShrd_running i j hrun) (shardOperand_ok (lt_nMax_of_le hi) hj)]
  rfl

/-- Settles O49: where the check passes MKWR writes its one mask byte. -/
theorem mkwrStoresMaskByte : Obligations.MkwrStoresMaskByte := by
  refine ⟨fun s i v hrun hi => ?_, fun s v hrun => ?_, illegalWhen_of_format_ab rfl⟩
  · have hrow := lt_nMax_of_le hi
    exact ⟨_, exec_eq_effect (execMkwr_running i v hrun) (maskOperand_ok hrow), rfl,
      fun i' => maskByte_setMaskByte s i' v hrow⟩
  · obtain ⟨_, _, hmkwr, _⟩ := accessOutsideSpaceFaults s hrun
    exact hmkwr v

/-- MKRD where its check passes. -/
theorem execMkrd_eq_respondByte {i : Byte} (hrun : s.faulted = false) (hi : i.toNat ≤ 254) :
    exec (.mkrd i) s = .next (s.respondByte (s.maskByte i.toNat)) := by
  rw [exec_eq_effect (execMkrd_running i hrun) (maskOperand_ok (lt_nMax_of_le hi))]

/-- Settles O50: where the check passes MKRD responds with its mask byte, and reset clears them all. -/
theorem mkrdReadsMaskByte : Obligations.MkrdReadsMaskByte := by
  refine ⟨fun s i => execMkrd_eq_respondByte, fun s hrun => ?_, illegalWhen_of_format_a rfl, fun b r i hi => ?_⟩
  · obtain ⟨_, _, _, hmkrd, _⟩ := accessOutsideSpaceFaults s hrun
    exact hmkrd
  · rw [execMkrd_eq_respondByte (resetWith_faulted b r) hi, maskByte_resetWith]
    rfl

/-! ### The registers -/

/-- A concatenation as a number: the high part stands above the low part's width. -/
theorem toNat_append_eq_add {m n : Nat} (x : BitVec m) (y : BitVec n) :
    (x ++ y).toNat = x.toNat * 2 ^ n + y.toNat := by
  rw [BitVec.toNat_append, ← Nat.shiftLeft_add_eq_or_of_lt y.isLt, Nat.shiftLeft_eq]

/-- The layout of STATUS (R24). -/
theorem toNat_status (s : State) :
    s.status.toNat = s.p.toNat * 2 ^ 16 + s.k.toNat * 2 ^ 8 + s.faulted.toNat * 2 + s.ctxValid.toNat := by
  simp only [State.status, toNat_append_eq_add, BitVec.toNat_ofBool, BitVec.ofNat_eq_ofNat,
    BitVec.toNat_ofNat]
  omega

/-- A word with the opcode of RDCSR is no command with a register number of 4 or more or a must-be-zero field set (R45). -/
theorem exists_decode_rdcsr_eq_error {cmd : Word} (hop : opField cmd = Opcode.rdcsr.code)
    (hbad : 4 ≤ (faField cmd).toNat ∨ fbField cmd ≠ 0 ∨ rsvField cmd ≠ 0 ∨ wField cmd ≠ 0) :
    ∃ e, decode cmd = .error e := by
  have hground : rsvField cmd ≠ 0 ∨ (fbField cmd ≠ 0 ∨ wField cmd ≠ 0) ∨ 4 ≤ (faField cmd).toNat := by tauto
  rw [decode_eq_error_iff_of_opField hop, Opcode.illegal_operands_iff]
  simpa [Opcode.code] using hground

/-- Settles O51: each register has its number, whatever FAULTED is, and every other word with the opcode of RDCSR is no
command. -/
theorem rdcsrReadsRegisters : Obligations.RdcsrReadsRegisters := by
  refine ⟨fun s => ⟨s.status, toNat_status s, execRdcsr_csr rfl⟩, fun s => execRdcsr_csr rfl, fun s => execRdcsr_csr rfl,
    fun s => execRdcsr_csr rfl, fun s cmd rest hhost hop hbad => ?_⟩
  obtain ⟨_, hstep, _⟩ := illegalWordRaisesIllegalCmd
  obtain ⟨e, hd⟩ := exists_decode_rdcsr_eq_error hop hbad
  refine ⟨fun hrun => hstep s cmd rest e hrun hhost hd, fun hf => ?_⟩
  rw [step_illegal hhost hd, illegal_faulted (s := s.withHost rest) cmd hf]
  rfl

end Sys2Proof.Machine
end

section
/-! SUPPORT. Faults (60_exceptions.md): the one way into a faulted engine, what a faulted engine does with each word, and the
order of the causes of ENCODE and RECON. -/

namespace Sys2Proof.Machine

variable {s t : State}

/-! ### Fault entry -/

/-- Of the effects a word can have, fault entry alone sets FAULTED (R106). -/
theorem WordEffect.eq_raiseFault_of_faults {w : Word} {d : Except IllegalWord Instr} (h : WordEffect s w d t)
    (hrun : s.faulted = false) (ht : t.faulted = true) : ∃ c, t = s.raiseFault c w := by
  cases h with
  | fault _ c => exact ⟨c, rfl⟩
  | _ => exact absurd ht (by simp [hrun])

/-- A word's step has one of the effects of the word, and what a fault records is that very word (R13, R106). -/
theorem step_effect_of_issued_word (h : step s = .next t) :
    (s.host = [] ∧ t = s) ∨
    (∃ rest, s.host = .reset :: rest ∧ t = (s.withHost rest).takeReset) ∨
    (∃ cmd rest, s.host = .command cmd :: rest ∧ WordEffect (s.withHost rest) cmd (decode cmd) t) := by
  obtain hidle | hreset | ⟨cmd, rest, i, hhost, hd, hexec⟩ | ⟨cmd, rest, e, hhost, _, rfl⟩ := step_cases h
  · exact .inl hidle
  · exact .inr (.inl hreset)
  · obtain ⟨_, hcmd⟩ := encodeInvertsDecode cmd i hd
    have heff := exec_effect hexec
    rw [hcmd, ← hd] at heff
    exact .inr (.inr ⟨cmd, rest, hhost, heff⟩)
  · exact .inr (.inr ⟨cmd, rest, hhost, illegal_effect _ cmd _⟩)

/-- Settles O15: idling and reset leave the engine running, and the one effect of a word that does not is fault entry. -/
theorem faultEntryChangesFaultRegistersOnly : Obligations.FaultEntryChangesFaultRegistersOnly := by
  intro s t hrun h ht
  obtain ⟨_, rfl⟩ | ⟨rest, _, rfl⟩ | ⟨cmd, rest, hhost, heff⟩ := step_effect_of_issued_word h
  · exact absurd ht (by simp [hrun])
  · exact absurd ht (by simp)
  · obtain ⟨c, rfl⟩ := heff.eq_raiseFault_of_faults hrun ht
    exact ⟨cmd, rest, c, hhost, rfl⟩

/-! ### The faulted engine -/

/-- A legal RDCSR names a register (R44, R45). -/
theorem csr_isSome_of_decode_rdcsr {cmd : Word} {n : Byte} (hd : decode cmd = .ok (.rdcsr n)) :
    ∃ v, s.csr n.toNat = some v := by
  obtain ⟨hwf, _⟩ := encodeInvertsDecode cmd _ hd
  have hn : n ≤ lastCsr := by simpa [Instr.wellFormed] using hwf
  exact csr_isSome (Nat.lt_succ_of_le (BitVec.le_def.mp hn))

/-- Settles O13: RDCSR does not look at FAULTED, and every other command and every illegal word looks at it first. -/
theorem faultedEngineDropsAllButRdcsr : Obligations.FaultedEngineDropsAllButRdcsr := by
  intro s cmd rest hf hhost
  refine ⟨fun n hd => ?_, fun hother => ?_⟩
  · obtain ⟨v, hv⟩ := csr_isSome_of_decode_rdcsr (s := s) hd
    exact ⟨v, hv, (step_command hhost hd).trans (execRdcsr_csr hv)⟩
  · cases hd : decode cmd with
    | ok i =>
      rw [step_command hhost hd, exec_faulted (s := s.withHost rest) hf fun n hi => absurd (hi ▸ hd) (hother n)]
      rfl
    | error e =>
      rw [step_illegal hhost hd, illegal_faulted (s := s.withHost rest) cmd hf]
      rfl

/-! ### The order of the causes -/

/-- ENCODE and RECON begin with one and the same check of their operands (R77, R83). -/
theorem exec_coding_eq_checked {i : Instr} {cnt : Byte} {size : Word32} (hrun : s.faulted = false)
    (hi : i = .encode cnt size ∨ i = .recon cnt size) :
    ∃ effect, exec i s = .next (s.checked (encode i) (s.groupOperand cnt size) effect) := by
  obtain rfl | rfl := hi
  · exact ⟨_, execEncode_running cnt size hrun⟩
  · exact ⟨_, execRecon_running cnt size hrun⟩

/-- Settles O17: the shared check finds the causes in this order, and a failed check is a fault entry. -/
theorem codingCommandsFaultInOrder : Obligations.CodingCommandsFaultInOrder := by
  intro s i cnt size hrun hi
  obtain ⟨effect, hexec⟩ := exec_coding_eq_checked hrun hi
  refine ⟨fun hctx => ?_, fun hctx hcnt => ?_, fun hctx hcnt hsize => ?_⟩
  · exact exec_eq_faultEntry hexec (groupOperand_noContext cnt size hctx)
  · exact exec_eq_faultEntry hexec (groupOperand_badCount size hctx hcnt)
  · exact exec_eq_faultEntry hexec (groupOperand_badBlock hctx hcnt hsize)

/-! ### The idle engine -/

/-- Settles O7, by the equation of the step for a host with nothing left to do. -/
theorem idleEngineHoldsState : Obligations.IdleEngineHoldsState :=
  fun _ => step_idle

end Sys2Proof.Machine
end

section
/-! SUPPORT. Reset (70_reset_and_hazards.md): the value of every register after it, the invariant of the state it leaves, and
no step of the engine stopping. -/

namespace Sys2Proof.Machine

/-! ### Every step answers -/

/-- Settles O11: idling, a reset and fault entry answer by the step itself, and every decoded command answers by its meaning. -/
theorem everyStepAnswersNextState : Obligations.EveryStepAnswersNextState := by
  intro s
  cases hhost : s.host with
  | nil => exact ⟨s, step_idle hhost⟩
  | cons action rest =>
    cases action with
    | reset => exact ⟨_, step_reset hhost⟩
    | command cmd =>
      cases hd : decode cmd with
      | ok i =>
        obtain ⟨t, ht⟩ := exec_next i (s.withHost rest)
        exact ⟨t, (step_command hhost hd).trans ht⟩
      | error e => exact ⟨_, step_illegal hhost hd⟩

/-! ### The values after reset -/

@[simp] theorem maskByte_takeReset (s : State) (i : Nat) : s.takeReset.maskByte i = 0 :=
  maskByte_resetWith s.blockMax (s.resets + 1) i

/-- STATUS packs K, P, FAULTED and CTX_VALID, all 0 after reset (R24, R114). -/
theorem status_takeReset (s : State) : s.takeReset.status = 0 := by
  simp only [State.status, takeReset_ctxValid, takeReset_k, takeReset_p, takeReset_faulted]
  decide

/-- Settles O8: the step is a reset, and each register, as held and as a CSR reads it, is that of the reset state. -/
theorem resetGivesEveryResetValue : Obligations.ResetGivesEveryResetValue := by
  intro s rest hhost
  exact ⟨_, step_reset hhost, takeReset_ctxValid _, takeReset_k _, takeReset_p _, fun i _ => maskByte_takeReset _ i,
    takeReset_faulted _, takeReset_fcause _, takeReset_fcmd _, takeReset_blockMax _, takeReset_host _,
    congrArg some (status_takeReset _), rfl, rfl, rfl⟩

/-! ### The invariant after reset -/

/-- The reset state holds no context, no fault and no written byte, so BLOCK_MAX alone is left to the invariant. -/
theorem State.Inv.resetWith {b : Word32} (hb : 1 ≤ b.toNat) (r : Nat) : (State.resetWith b r).Inv where
  blockMax_pos := hb
  context := ⟨nofun, fun _ => ⟨rfl, rfl, rfl⟩⟩
  faults := ⟨fun _ => ⟨rfl, rfl⟩, nofun⟩
  shards := ⟨resetWith_memory_wf b r, nofun⟩

/-- Settles O9: the invariant asks of a reset state only a BLOCK_MAX of at least 1, which the 16 of `State.reset` is. -/
theorem resetStateMeetsInvariant : Obligations.ResetStateMeetsInvariant :=
  ⟨fun _ r hb => .resetWith hb r, .resetWith (by decide) 0⟩

end Sys2Proof.Machine
end
